-- ==== Sys2Proof/Word.lean ====
section
/-! DEFINITION. The widths of the values of the block (spec/00_scope.md R10). -/

namespace Sys2Proof

/-- A video-memory byte, a device pixel, a palette entry, a sampler result (R10). -/
abbrev Byte := BitVec 8

/-- A pixel word, an ALU entry, a border word, a command word, and the 32-bit
counters CYC, TARGET and CARRY (R10, R110). -/
abbrev Word := BitVec 32

/-- An offset into a video bank, 0 to 16383 (R10, R81). -/
abbrev Offset := BitVec 14

/-- The 24-bit count operand of ADVANCE, SAMPLE and SET_CYCLES (R10, R112). -/
abbrev Count := BitVec 24

/-- A border colour index, 0 to 7 (R47). -/
abbrev Colour := BitVec 3

/-- Sparse storage: key and value pairs, keys strictly rising, no value equal to what
an unlisted key reads as. The form is `Machine.Sparse.wf`. -/
abbrev Sparse (α : Type) := List (Nat × α)

end Sys2Proof
end

