-- ==== Sys2Proof/Config.lean ====
section
/-! DEFINITION. The machine and aspect variants, the configuration record CFG
(spec/00_scope.md R8), and the free values the spec leaves unspecified. -/

namespace Sys2Proof

/-- MACHINE: the 48K-class and the 128K-class variant (R8). -/
inductive Variant where
  | m48
  | m128
  deriving DecidableEq, Repr, Inhabited

/-- ASPECT: 4:3 and 16:9 (R8). -/
inductive Aspect where
  | a43
  | a169
  deriving DecidableEq, Repr, Inhabited

/-- The pair the register MODE holds (R44). -/
structure Mode where
  variant : Variant
  aspect : Aspect
  deriving DecidableEq, Repr, Inhabited

/-- One of the two video banks (R81). -/
inductive Bank where
  | bank0
  | bank1
  deriving DecidableEq, Repr, Inhabited

/-- The raster phases and sub-states (R32). -/
inductive Phase where
  | blank
  | topWait
  | topDraw
  | mainWait
  | mainDraw
  | botWait
  | botDraw
  deriving DecidableEq, Repr, Inhabited

/-- PALETTE: 16 device colours, index 8·bright + colour (R39, R141). -/
abbrev Palette := Vector Byte 16

/-- ALU: 16 × 256 packed pixel words, `ALU[n][a]` (R40). -/
abbrev AluTable := Vector (Vector Word 256) 16

/-- BORDER_WORD: one replicated word for each of the 8 border colours (R42). -/
abbrev BorderWords := Vector Word 8

/-- CFG, the parameters one (MACHINE, ASPECT) pair selects (R8). The table's derived
fields WPR, UNITS and FB_LINES are `Cfg.wpr`, `Cfg.units` and `Cfg.fbLines`. -/
structure Cfg where
  /-- CPL, cycles per raster line. -/
  cpl : Nat
  /-- CPF, cycles per frame. -/
  cpf : Nat
  /-- HRES, frame-buffer row width in device pixels. -/
  hres : Nat
  /-- VRES, frame-buffer row count. -/
  vres : Nat
  /-- SCREEN_LINES, graphics lines per frame. -/
  screenLines : Nat
  /-- SCREEN_CELLS, character cells per graphics line. -/
  screenCells : Nat
  /-- TB, top-border rows. -/
  tb : Nat
  /-- BB, bottom-border rows. -/
  bb : Nat
  /-- LB, left-border units in a row. -/
  lb : Nat
  /-- RB, right-border units in a row. -/
  rb : Nat
  /-- RWO, row word offset for letterboxing. -/
  rwo : Nat
  /-- FIRST_THRESH, the cycle count at which row 0 begins. -/
  firstThresh : Nat
  /-- ATTR_BASE, attribute region start in a video bank. -/
  attrBase : Nat
  /-- ROW_STRIDE, attribute bytes per character row. -/
  rowStride : Nat
  /-- FB_LINE0, raster line of graphics line 0 for the sampler band. -/
  fbLine0 : Nat
  /-- FB_OFFSET, cycle offset added before the sampler's division (signed, R182). -/
  fbOffset : Int
  /-- FIRST_HALF, first line phase not used for graphics fetch. -/
  firstHalf : Nat
  /-- OSD_ROW_LO and OSD_ROW_HI, the overlay rectangle's rows, half-open. -/
  osdRowLo : Nat
  osdRowHi : Nat
  /-- OSD_UNIT_LO and OSD_UNIT_HI, the overlay rectangle's units, half-open. -/
  osdUnitLo : Nat
  osdUnitHi : Nat
  /-- RAW_COLORS, the raw colour constants. -/
  rawColors : Vector Byte 16
  /-- PF_MASK, the pixel format's colour mask. -/
  pfMask : Byte
  /-- PF_BITS, the pixel format's fixed bits. -/
  pfBits : Byte
  deriving DecidableEq, Repr

/-- WPR, words per frame-buffer row, HRES / 4 (R8). -/
def Cfg.wpr (c : Cfg) : Nat := c.hres / 4

/-- UNITS, units per row, LB + SCREEN_CELLS + RB (R8). -/
def Cfg.units (c : Cfg) : Nat := c.lb + c.screenCells + c.rb

/-- FB_LINES, lines in the sampler band, SCREEN_LINES (R8, D21). -/
def Cfg.fbLines (c : Cfg) : Nat := c.screenLines

/-- T_r, the cycle count at which row r begins: FIRST_THRESH + r·CPL (43_raster.md). -/
def Cfg.rowStart (c : Cfg) (r : Nat) : Nat := c.firstThresh + r * c.cpl

/-- CFG as a function of (MACHINE, ASPECT), written out as plain data (R8). -/
structure Configs where
  m48a43 : Cfg
  m48a169 : Cfg
  m128a43 : Cfg
  m128a169 : Cfg
  deriving DecidableEq, Repr

/-- The configuration a mode selects (R8, R44). -/
def Configs.select (cs : Configs) (m : Mode) : Cfg :=
  match m.variant, m.aspect with
  | .m48, .a43 => cs.m48a43
  | .m48, .a169 => cs.m48a169
  | .m128, .a43 => cs.m128a43
  | .m128, .a169 => cs.m128a169

/-- Every element R57 calls "unspecified" after a failed INIT or RESET. DESIGN CHOICE: the free draw
takes in how many entries BMP_OFF, ATTR_OFF and BCACHE have, and LINE and COL of any size (log
entry 3). -/
structure Unspecified where
  phase : Phase
  line : Nat
  col : Nat
  target : Word
  carry : Word
  cyc : Word
  osdActive : Bool
  palette : Palette
  alu : AluTable
  bmpOff : List Offset
  attrOff : List Offset
  borderWord : BorderWords
  bcache : List Byte
  deriving Inhabited

/-- FREE VALUE (log entry 3): what a failed INIT or RESET leaves in the raster position and
the tables, one draw per failure. "any value of the element's type" (R57, R263). -/
opaque Config.unspecified : Nat → Unspecified

/-- FREE VALUE (log entry 4): the byte of a SAMPLE that lands inside an INIT or RESET,
"an unspecified byte (any value 0 to 255, a free draw)" (R341). -/
opaque Config.rebuildByte : Nat → Byte

end Sys2Proof
end

