-- ==== Sys2Proof/Syntax.lean ====
section
/-! DEFINITION. The twelve commands (spec/30_encoding.md R114), one constructor per row of
spec/opcode_table.json. Operands have the width of their field (R112), so every term is a
command with operands in range. -/

namespace Sys2Proof

inductive Instr where
  /-- INIT m, a (R261). -/
  | init (m : Variant) (a : Aspect)
  /-- RESET m, a (R262). -/
  | reset (m : Variant) (a : Aspect)
  /-- ADVANCE n (R202). -/
  | advance (n : Count)
  /-- FLUSH (R217). -/
  | flush
  /-- SAMPLE n (R180). -/
  | sample (n : Count)
  /-- SET_BORDER c (R264). -/
  | setBorder (c : Colour)
  /-- SET_OVERLAY v (R265). -/
  | setOverlay (v : Bool)
  /-- SET_FLASH v (R266). -/
  | setFlash (v : Bool)
  /-- SET_LATCH v (R267). -/
  | setLatch (v : Bank)
  /-- SET_CYCLES n (R268). -/
  | setCycles (n : Count)
  /-- FRAME_WRAP (R269). -/
  | frameWrap
  /-- POKE b, o, d (R270). -/
  | poke (b : Bank) (o : Offset) (d : Byte)
  deriving DecidableEq, Repr

end Sys2Proof
end

