-- ==== Sys2Proof/Decode.lean ====
section
/-! DEFINITION. The decoder and the encoder of command words (spec/30_encoding.md R110 to R118). -/

namespace Sys2Proof

/-- Why a word spells no command. The block reports both as IllegalCommand (R301). -/
inductive DecodeError where
  /-- OP is 0x0, 0xD, 0xE or 0xF (R115). -/
  | reservedOpcode
  /-- A defined OP with a 1 in a bit its format marks 0 (R116). -/
  | reservedBits
  deriving DecidableEq, Repr

/-- One row of spec/opcode_table.json: the legal words are those with `w &&& mask = pattern`. -/
structure OpcodeRow where
  op : BitVec 4
  mask : Word
  pattern : Word
  deriving DecidableEq, Repr

/-- spec/opcode_table.json's mask and match columns, in its order (R114, R116). -/
def opcodeTable : List OpcodeRow :=
  [ ⟨0x1, 0xFFFFFFFC, 0x10000000⟩,   -- INIT
    ⟨0x2, 0xFFFFFFFC, 0x20000000⟩,   -- RESET
    ⟨0x3, 0xFF000000, 0x30000000⟩,   -- ADVANCE
    ⟨0x4, 0xFFFFFFFF, 0x40000000⟩,   -- FLUSH
    ⟨0x5, 0xFF000000, 0x50000000⟩,   -- SAMPLE
    ⟨0x6, 0xFFFFFFF8, 0x60000000⟩,   -- SET_BORDER
    ⟨0x7, 0xFFFFFFFE, 0x70000000⟩,   -- SET_OVERLAY
    ⟨0x8, 0xFFFFFFFE, 0x80000000⟩,   -- SET_FLASH
    ⟨0x9, 0xFFFFFFFE, 0x90000000⟩,   -- SET_LATCH
    ⟨0xA, 0xFF000000, 0xA0000000⟩,   -- SET_CYCLES
    ⟨0xB, 0xFFFFFFFF, 0xB0000000⟩,   -- FRAME_WRAP
    ⟨0xC, 0xFF800000, 0xC0000000⟩ ]  -- POKE

/-- The opcode field OP, bits [31:28] (R111). -/
def opField (w : Word) : BitVec 4 := w.extractLsb' 28 4

/-- The row of a defined OP; none for a reserved one (R114, R115). -/
def rowOf (op : BitVec 4) : Option OpcodeRow := opcodeTable.find? fun r => r.op == op

/-- MACHINE bit: 0 M48, 1 M128 (R112 format FM). -/
def variantOfBit (b : Bool) : Variant := if b then .m128 else .m48

/-- ASPECT bit: 0 A43, 1 A169 (R112 format FM). -/
def aspectOfBit (b : Bool) : Aspect := if b then .a169 else .a43

/-- Bank bit (R112 formats F1 and FP). -/
def bankOfBit (b : Bool) : Bank := if b then .bank1 else .bank0

/-- The fields of a word under its OP's format (R112); none for a reserved OP. -/
def fieldsOf (w : Word) : Option Instr :=
  match (opField w).toNat with
  | 0x1 => some (.init (variantOfBit (w.getLsbD 1)) (aspectOfBit (w.getLsbD 0)))
  | 0x2 => some (.reset (variantOfBit (w.getLsbD 1)) (aspectOfBit (w.getLsbD 0)))
  | 0x3 => some (.advance (w.extractLsb' 0 24))
  | 0x4 => some .flush
  | 0x5 => some (.sample (w.extractLsb' 0 24))
  | 0x6 => some (.setBorder (w.extractLsb' 0 3))
  | 0x7 => some (.setOverlay (w.getLsbD 0))
  | 0x8 => some (.setFlash (w.getLsbD 0))
  | 0x9 => some (.setLatch (bankOfBit (w.getLsbD 0)))
  | 0xA => some (.setCycles (w.extractLsb' 0 24))
  | 0xB => some .frameWrap
  | 0xC => some (.poke (bankOfBit (w.getLsbD 22)) (w.extractLsb' 8 14) (w.extractLsb' 0 8))
  | _ => none

/-- The decoder, total on 32-bit words (R118): reserved OP, then the mask check, then the
fields. -/
def decode (w : Word) : Except DecodeError Instr :=
  match rowOf (opField w), fieldsOf w with
  | some row, some i => if w &&& row.mask = row.pattern then .ok i else .error .reservedBits
  | _, _ => .error .reservedOpcode

/-- The bit of a variant, an aspect, a bank (R112). -/
def Variant.bit : Variant → BitVec 1
  | .m48 => 0#1
  | .m128 => 1#1

def Aspect.bit : Aspect → BitVec 1
  | .a43 => 0#1
  | .a169 => 1#1

def Bank.bit : Bank → BitVec 1
  | .bank0 => 0#1
  | .bank1 => 1#1

/-- A field at bits [lo+w−1:lo] of a command word, every other bit 0 (R11, R112). -/
def placed {w : Nat} (lo : Nat) (x : BitVec w) : Word := x.setWidth 32 <<< lo

/-- Format FM: OP [31:28], m bit 1, a bit 0 (R112). -/
def formatFM (op : BitVec 4) (m : Variant) (a : Aspect) : Word :=
  placed 28 op ||| placed 1 m.bit ||| placed 0 a.bit

/-- Format FN: OP [31:28], n [23:0] (R112). -/
def formatFN (op : BitVec 4) (n : Count) : Word := placed 28 op ||| placed 0 n

/-- Format F0: OP [31:28] (R112). -/
def formatF0 (op : BitVec 4) : Word := placed 28 op

/-- Format FC: OP [31:28], c [2:0] (R112). -/
def formatFC (op : BitVec 4) (c : Colour) : Word := placed 28 op ||| placed 0 c

/-- Format F1: OP [31:28], v bit 0 (R112). -/
def formatF1 (op : BitVec 4) (v : BitVec 1) : Word := placed 28 op ||| placed 0 v

/-- Format FP: OP [31:28], b bit 22, o [21:8], d [7:0] (R112). -/
def formatFP (op : BitVec 4) (b : Bank) (o : Offset) (d : Byte) : Word :=
  placed 28 op ||| placed 22 b.bit ||| placed 8 o ||| placed 0 d

/-- The word of a command (R112, R114). -/
def encode : Instr → Word
  | .init m a => formatFM 0x1 m a
  | .reset m a => formatFM 0x2 m a
  | .advance n => formatFN 0x3 n
  | .flush => formatF0 0x4
  | .sample n => formatFN 0x5 n
  | .setBorder c => formatFC 0x6 c
  | .setOverlay v => formatF1 0x7 (BitVec.ofBool v)
  | .setFlash v => formatF1 0x8 (BitVec.ofBool v)
  | .setLatch v => formatF1 0x9 v.bit
  | .setCycles n => formatFN 0xA n
  | .frameWrap => formatF0 0xB
  | .poke b o d => formatFP 0xC b o d

/-- The decoder on a word numbered as spec/opcode_table.json numbers it: one 32-bit word,
bit 0 the least significant (R110); bits at and above `nbits` are zero. -/
def decodeTableWord (nbits w : Nat) : Option Instr :=
  match decode (BitVec.ofNat 32 (w % 2 ^ nbits)) with
  | .ok i => some i
  | .error _ => none

end Sys2Proof
end

