-- ==== Sys2Proof/Machine/Bits.lean ====
section
/-! DEFINITION. Table building and the four pixel lanes of a word (spec/20_memory.md R86). -/

namespace Sys2Proof.Machine

/-- The table whose entry k is `f k`. -/
def tabulate {α : Type} (n : Nat) (f : Nat → α) : Vector α n :=
  ⟨⟨(List.range n).map f⟩, by simp⟩

/-- Pixel k of a pixel word, bits [8k+7:8k] (R86, R149). -/
def lane (w : Word) (k : Nat) : Byte := w.extractLsb' (8 * k) 8

/-- `pix0 | (pix1 << 8) | (pix2 << 16) | (pix3 << 24)`, the first pixel lowest (R86, R145). -/
def pack (p0 p1 p2 p3 : Byte) : Word :=
  p0.setWidth 32 ||| (p1.setWidth 32 <<< 8) ||| (p2.setWidth 32 <<< 16) |||
    (p3.setWidth 32 <<< 24)

/-- One device colour in all four bytes (R163). -/
def replicate4 (p : Byte) : Word := pack p p p p

end Sys2Proof.Machine
end

