-- ==== Sys2Proof/Machine/Reference.lean ====
section
/-! DEFINITION. The reference values of CFG (spec/00_scope.md R8, decisions D16, D19 to D24) and
the values the model takes for the OPEN parameters at reset (log entry 2): the test palette TP
and the overlay rectangle of program P4, both from spec/95_test_vectors.md. -/

namespace Sys2Proof.Machine

/-- RAW_COLORS of the test palette TP (spec/95_test_vectors.md section 1).
DESIGN CHOICE: the spec leaves RAW_COLORS OPEN (D15). -/
def testRawColors : Vector Byte 16 :=
  #v[0x00, 0x20, 0x02, 0x22, 0x08, 0x28, 0x0A, 0x2A,
     0x00, 0x30, 0x03, 0x33, 0x0C, 0x3C, 0x0F, 0x3F]

/-- The reference configuration of a mode (R8). FIRST_THRESH is the formula of D24,
(FB_LINE0 − TB)·CPL − 4·LB. -/
def referenceCfg (m : Mode) : Cfg :=
  let cpl := match m.variant with | .m48 => 224 | .m128 => 228
  let fbLine0 := match m.variant with | .m48 => 64 | .m128 => 63
  let border := match m.aspect with | .a43 => 24 | .a169 => 4
  let side := match m.aspect with | .a43 => 4 | .a169 => 6
  { cpl := cpl
    cpf := match m.variant with | .m48 => 69888 | .m128 => 70908
    hres := match m.aspect with | .a43 => 320 | .a169 => 360
    vres := match m.aspect with | .a43 => 240 | .a169 => 200
    screenLines := 192
    screenCells := 32
    tb := border
    bb := border
    lb := side
    rb := side
    rwo := match m.aspect with | .a43 => 0 | .a169 => 1
    firstThresh := (fbLine0 - border) * cpl - 4 * side
    attrBase := 0x1800
    rowStride := 32
    fbLine0 := fbLine0
    fbOffset := match m.variant with | .m48 => 0 | .m128 => 1
    firstHalf := 128
    osdRowLo := 100
    osdRowHi := 140
    osdUnitLo := 10
    osdUnitHi := 30
    rawColors := testRawColors
    pfMask := 0x3F
    pfBits := 0xC0 }

/-- The four reference configurations (R8). -/
def referenceConfigs : Configs :=
  { m48a43 := referenceCfg ⟨.m48, .a43⟩
    m48a169 := referenceCfg ⟨.m48, .a169⟩
    m128a43 := referenceCfg ⟨.m128, .a43⟩
    m128a169 := referenceCfg ⟨.m128, .a169⟩ }

end Sys2Proof.Machine
end

