-- ==== Sys2Proof/Machine/State.lean ====
section
/-! DEFINITION. The state of the block (spec/10_state.md R30 to R58), the host's side of it that
a step reads, and the state right after power-on. -/

namespace Sys2Proof.Machine

/-- VSTAT, the video status (R45). -/
inductive VStat where
  | uninit
  | ready
  | failed
  deriving DecidableEq, Repr, Inhabited

/-- The four host-written inputs (R46). -/
inductive Input where
  | border
  | flash
  | osdVisible
  | latch
  deriving DecidableEq, Repr

/-- The kinds the register FAULT can hold (R53, R301). Raising one is a NEXT state: FAULT takes
the kind, the writes made before the fault point are kept, and every later command is ignored
(R300). -/
inductive FaultKind where
  /-- A word that spells no command (R115, R116). -/
  | illegalCommand
  /-- VSTAT ≠ READY at ADVANCE, FLUSH, SAMPLE or FRAME_WRAP. -/
  | notReady
  /-- `read(I)` of an input that holds ⊥. -/
  | unwrittenInput (i : Input)
  /-- CYC + n ≥ 2^32 at ADVANCE step 1. -/
  | cycleOverflow
  /-- CYC < CPF at FRAME_WRAP. -/
  | wrapUnderflow
  /-- FBWrite with r ≥ VRES or j ≥ WPR. -/
  | boundsViolation
  deriving DecidableEq, Repr

/-- FB, the frame buffer: row r of the outer list holds the words of row r (R51, R83). The block
reaches it by row and word index only and never forms a byte address (R91). -/
abbrev FrameBuffer := Sparse (Sparse Word)

/-- What the host hands the block next (R6, R7, R260, R309). The list is the host's: the block
has no program counter (R31). -/
inductive HostInput where
  /-- A command word issued by the main context (R260). -/
  | command (w : Word)
  /-- A SAMPLE issued by the interrupt context, landing between two main-context commands
  (R96, R304, R309). That context issues only SAMPLE (R7). -/
  | interruptSample (n : Count)
  /-- A SAMPLE issued by the interrupt context, landing inside the INIT or RESET that is the
  next main-context command of the list (R341). -/
  | preemptingSample (n : Count)
  /-- The overlay compositor writes word `j` of frame-buffer row `r`, between two commands
  (R51, R99). -/
  | overlayStore (r j : Nat) (w : Word)
  deriving DecidableEq, Repr

structure State where
  /-- MODE (R44). -/
  mode : Mode
  /-- VSTAT (R45). -/
  vstat : VStat
  /-- PHASE (R32). -/
  phase : Phase
  /-- LINE, the current frame-buffer row (R33). -/
  line : Nat
  /-- COL, the unit index in the row (R34). -/
  col : Nat
  /-- TARGET, the cycle count of the next line boundary (R35). -/
  target : Word
  /-- CARRY, the carried remainder (R36). -/
  carry : Word
  /-- CYC, the cumulative cycle counter (R37). -/
  cyc : Word
  /-- OSD_ACTIVE, the draw variant of the current row (R38). -/
  osdActive : Bool
  /-- PALETTE (R39). -/
  palette : Palette
  /-- ALU (R40). -/
  alu : AluTable
  /-- BMP_OFF (R41). -/
  bmpOff : List Offset
  /-- ATTR_OFF (R41). -/
  attrOff : List Offset
  /-- BORDER_WORD (R42). -/
  borderWord : BorderWords
  /-- BCACHE, one entry per frame-buffer row (R43). -/
  bcache : List Byte
  /-- BORDER; `none` is ⊥, never written (R46, R47). -/
  border : Option Colour
  /-- FLASH (R46, R48). -/
  flash : Option Bool
  /-- OSD_VISIBLE (R46, R49). -/
  osdVisible : Option Bool
  /-- LATCH (R46, R50). -/
  latch : Option Bank
  /-- VRAM, both banks: bank b offset o at address 16384·b + o (R51, R81). -/
  vram : List Host.Cell
  /-- FB (R51, R83). -/
  fb : FrameBuffer
  /-- OUT, the output trace (R52). -/
  out : List Byte
  /-- FAULT (R53). -/
  fault : Option FaultKind
  /-- THE MODEL'S OWN: what the host hands over next, first first (log entry 5). -/
  inputs : List HostInput
  /-- THE MODEL'S OWN: the outcomes alloc_ok of the coming table allocations (R263), first
  first; `true` when none is listed (log entry 6). -/
  allocs : List Bool
  /-- THE MODEL'S OWN: how many free values have been drawn (log entries 3 and 4). -/
  draws : Nat
  /-- THE MODEL'S OWN: CFG as a function of MODE, a parameter no command changes (R8,
  log entry 2). -/
  configs : Configs
  deriving DecidableEq, Repr

/-- A step that stops the machine. No fault of the spec is one of these: the spec's faults are
values of the register FAULT (`FaultKind`) and the machine goes on, ignoring commands (R300). -/
inductive Fault where
  /-- The host's overlay wrote a frame-buffer word that does not exist, `r ≥ VRES` or
  `j ≥ WPR` of the active mode (R83). Raised by `Machine.overlayStore`. Safe: the model stops. -/
  | noSuchFrameBufferWord
  deriving DecidableEq, Repr

/-- A step that is given no meaning. -/
inductive Refusal where
  /-- An instruction whose arm of `exec` has no meaning yet. No arm of this model is so. -/
  | notModelled (mnemonic : String)
  /-- A configuration that breaks a check of R9: "the model gives it no meaning", "refused
  before any command runs" (R9, R312). Raised by `step`. Safe: the model stops. -/
  | configurationNotAdmitted
  deriving DecidableEq, Repr

/-- The outcome of a command or of a step. -/
abbrev Result := Host.Outcome State Fault Refusal

/-- Power-on (R57, R330): VSTAT = UNINIT, FAULT = none, OUT empty, the inputs ⊥. Every other
element is "unspecified" there, and no rule reads it before an INIT (R58): the values below,
zeros, are log entry 1. VRAM and FB hold the launch state: nothing listed (log entry 7). -/
def State.reset : State :=
  { mode := ⟨.m48, .a43⟩
    vstat := .uninit
    phase := .blank
    line := 0
    col := 0
    target := 0
    carry := 0
    cyc := 0
    osdActive := false
    palette := Vector.replicate 16 0
    alu := Vector.replicate 16 (Vector.replicate 256 0)
    bmpOff := List.replicate 192 0
    attrOff := List.replicate 192 0
    borderWord := Vector.replicate 8 0
    bcache := List.replicate 240 0
    border := none
    flash := none
    osdVisible := none
    latch := none
    vram := []
    fb := []
    out := []
    fault := none
    inputs := []
    allocs := []
    draws := 0
    configs := referenceConfigs }

end Sys2Proof.Machine
end

