-- ==== Sys2Proof/Machine/Ops.lean ====
section
/-! DEFINITION. The shared operations over the state: the fault outcome, sparse storage, video
memory, the frame buffer and the output trace (spec/20_memory.md, spec/60_exceptions.md). -/

namespace Sys2Proof.Machine

/-- CFG, the configuration MODE selects (R8, R44). -/
def State.cfg (s : State) : Cfg := s.configs.select s.mode

/-! ### The fault outcome (R300) -/

/-- `raise Fault(k)`: FAULT takes the value k; all else is kept (R300). -/
def raise (k : FaultKind) (s : State) : State := { s with fault := some k }

/-- Go on with `f` unless a fault was raised: "nothing after the fault point is done" (R300). -/
def andThen (s : State) (f : State → State) : State := if s.fault.isSome then s else f s

/-- Apply a command: ignored once FAULT holds a kind, else its body runs (R300). There is no
return from a fault: "no handler, no fault return and no recovery". -/
def applyCommand (s : State) (body : State → State) : Result := .next (andThen s body)

/-! ### Sparse storage -/

/-- The value at a key; `d` is what an unlisted key reads as. -/
def Sparse.get {α : Type} (d : α) : Sparse α → Nat → α
  | [], _ => d
  | (k, v) :: m, key => if k = key then v else Sparse.get d m key

/-- Put a listed value at a key, keeping the keys in rising order. -/
def Sparse.insert {α : Type} : Sparse α → Nat → α → Sparse α
  | [], key, v => [(key, v)]
  | (k, v') :: m, key, v =>
    if key < k then (key, v) :: (k, v') :: m
    else if key = k then (key, v) :: m
    else (k, v') :: Sparse.insert m key v

/-- Take a key's entry away. -/
def Sparse.erase {α : Type} (m : Sparse α) (key : Nat) : Sparse α := m.filter fun e => e.1 != key

/-- Write a value: writing what an unlisted key reads as takes the entry away. -/
def Sparse.put {α : Type} [DecidableEq α] (d : α) (m : Sparse α) (key : Nat) (v : α) : Sparse α :=
  if v = d then Sparse.erase m key else Sparse.insert m key v

/-- The canonical form: keys strictly rising, no entry equal to what an unlisted key reads as. -/
def Sparse.wf {α : Type} [DecidableEq α] (d : α) (m : Sparse α) : Bool :=
  decide ((m.map Prod.fst).Pairwise (· < ·)) && m.all fun e => decide (e.2 ≠ d)

/-! ### Video memory (R81) -/

/-- What a byte of video memory that nothing has written reads as (log entry 7). -/
def Memory.unlisted : Byte := 0x00

/-- The address of byte `o` of bank `b` in the list (R81). -/
def Memory.address (b : Bank) (o : Offset) : Nat :=
  match b with
  | .bank0 => o.toNat
  | .bank1 => 16384 + o.toNat

/-- VRAM(b, off) (R81). -/
def Memory.read (m : List Host.Cell) (b : Bank) (o : Offset) : Byte :=
  Sparse.get Memory.unlisted m (Memory.address b o)

/-- VRAM(b, off) <- d, a host write (R270). -/
def Memory.write (m : List Host.Cell) (b : Bank) (o : Offset) (d : Byte) : List Host.Cell :=
  Sparse.put Memory.unlisted m (Memory.address b o) d

/-- The canonical form of video memory, all of it inside the two banks (R81). -/
def Memory.wf (m : List Host.Cell) : Bool :=
  Sparse.wf Memory.unlisted m && m.all fun e => decide (e.1 < 32768)

/-! ### The frame buffer (R83 to R88) -/

/-- What a frame-buffer word that nothing has written reads as (log entry 7). -/
def FrameBuffer.unlisted : Word := 0x00000000

/-- Word j of row r (R83). -/
def FrameBuffer.read (fb : FrameBuffer) (r j : Nat) : Word :=
  Sparse.get FrameBuffer.unlisted (Sparse.get [] fb r) j

/-- Word j of row r <- w. -/
def FrameBuffer.write (fb : FrameBuffer) (r j : Nat) (w : Word) : FrameBuffer :=
  Sparse.put [] fb r (Sparse.put FrameBuffer.unlisted (Sparse.get [] fb r) j w)

/-- The canonical form of the frame buffer: rows rising, none empty, each row canonical. -/
def FrameBuffer.wf (fb : FrameBuffer) : Bool :=
  Sparse.wf [] fb && fb.all fun row => Sparse.wf FrameBuffer.unlisted row.2

/-- Row pixel p of row r: pixel p mod 4 of word p div 4 (R87). -/
def FrameBuffer.pixel (fb : FrameBuffer) (r p : Nat) : Byte :=
  lane (FrameBuffer.read fb r (p / 4)) (p % 4)

/-- The byte view of a row, little-endian: byte i is bits of word i div 4 (R88). -/
def FrameBuffer.byte (fb : FrameBuffer) (r i : Nat) : Byte :=
  BitVec.ofNat 8 ((FrameBuffer.read fb r (i / 4)).toNat / 2 ^ (8 * (i % 4)))

/-- A row and word index inside the frame buffer of the active mode (R84). -/
def State.inFrameBuffer (s : State) (r j : Nat) : Bool :=
  decide (r < s.cfg.vres) && decide (j < s.cfg.wpr)

/-- FBWrite(r, j, w) (R84): out of range raises BoundsViolation and writes nothing. -/
def fbWrite (r j : Nat) (w : Word) (s : State) : State :=
  if s.inFrameBuffer r j then { s with fb := FrameBuffer.write s.fb r j w }
  else raise .boundsViolation s

/-! ### The output trace (R52) -/

/-- `emit(v)`: append v to OUT (R13, R52). -/
def emit (v : Byte) (s : State) : State := { s with out := s.out ++ [v] }

end Sys2Proof.Machine
end

