-- ==== Sys2Proof/Machine/Operands.lean ====
section
/-! DEFINITION. Operands: the count field's zero extension (spec/30_encoding.md R113) and
`read(I)`, the read of a host-written input (spec/10_state.md R46). -/

namespace Sys2Proof.Machine

/-- The count operand, zero-extended to 32 bits (R113). -/
def zextCount (n : Count) : Word := n.setWidth 32

/-- `read(I)`: go on with the input's value, or raise UnwrittenInput(I) when it holds ⊥ (R46). -/
def readInput {α : Type} (i : Input) (value : Option α) (s : State) (use : α → State) : State :=
  match value with
  | some v => use v
  | none => raise (.unwrittenInput i) s

/-- read(BORDER) (R47). -/
def readBorder (s : State) (use : Colour → State) : State := readInput .border s.border s use

/-- read(FLASH) (R48). -/
def readFlash (s : State) (use : Bool → State) : State := readInput .flash s.flash s use

/-- read(OSD_VISIBLE) (R49). -/
def readOsdVisible (s : State) (use : Bool → State) : State :=
  readInput .osdVisible s.osdVisible s use

/-- read(LATCH) (R50). -/
def readLatch (s : State) (use : Bank → State) : State := readInput .latch s.latch s use

/-- BMP_OFF[s] + c (R89). The default of the list read is never used: s < SCREEN_LINES (R225). -/
def State.bitmapOffset (s : State) (g c : Nat) : Offset :=
  s.bmpOff.getD g 0 + BitVec.ofNat 14 c

/-- ATTR_OFF[s] + c (R89). -/
def State.attributeOffset (s : State) (g c : Nat) : Offset :=
  s.attrOff.getD g 0 + BitVec.ofNat 14 c

end Sys2Proof.Machine
end

