-- ==== Sys2Proof/Machine/HostCommands.lean ====
section
/-! DEFINITION. The input setters and the counter and memory host moves
(spec/44_host_commands.md R264 to R270). -/

namespace Sys2Proof.Machine

/-- SET_BORDER c (R264). -/
def execSetBorder (c : Colour) (s : State) : Result :=
  applyCommand s fun s => { s with border := some c }

/-- SET_OVERLAY v: OSD_ACTIVE is not changed (R265). -/
def execSetOverlay (v : Bool) (s : State) : Result :=
  applyCommand s fun s => { s with osdVisible := some v }

/-- SET_FLASH v (R266). -/
def execSetFlash (v : Bool) (s : State) : Result :=
  applyCommand s fun s => { s with flash := some v }

/-- SET_LATCH v (R267). -/
def execSetLatch (v : Bank) (s : State) : Result :=
  applyCommand s fun s => { s with latch := some v }

/-- SET_CYCLES n, legal in every status; the raster position is not changed (R268). -/
def execSetCycles (n : Count) (s : State) : Result :=
  applyCommand s fun s => { s with cyc := zextCount n }

/-- FRAME_WRAP() (R269). -/
def frameWrap (s : State) : State :=
  if s.vstat ≠ .ready then raise .notReady s
  else if s.cyc.toNat < s.cfg.cpf then raise .wrapUnderflow s
  else { s with cyc := s.cyc - BitVec.ofNat 32 s.cfg.cpf }

/-- FRAME_WRAP (R269). -/
def execFrameWrap (s : State) : Result := applyCommand s frameWrap

/-- POKE b, o, d (R270). -/
def execPoke (b : Bank) (o : Offset) (d : Byte) (s : State) : Result :=
  applyCommand s fun s => { s with vram := Memory.write s.vram b o d }

end Sys2Proof.Machine
end

