-- ==== Sys2Proof/Machine/ColorLut.lean ====
section
/-! DEFINITION. color_attribute_lut: PALETTE and the ALU table
(spec/40_color_attribute_lut.md R140 to R149). -/

namespace Sys2Proof.Machine

/-- Entry k of a table of 16 colours, for a 4-bit colour index (R39, R141). -/
def paletteAt (p : Palette) (k : BitVec 4) : Byte := p.get k.toFin

/-- One device colour: "masking" is AND with PF_MASK, "merging" is OR with PF_BITS (R140). -/
def deviceColour (c : Cfg) (raw : Byte) : Byte := (raw &&& c.pfMask) ||| c.pfBits

/-- BuildPalette (R140). -/
def buildPalette (c : Cfg) : Palette :=
  tabulate 16 fun k => deviceColour c (paletteAt c.rawColors (BitVec.ofNat 4 k))

/-- Ink index {bright, a[2:0]} (R143). -/
def inkIndex (a : Byte) : BitVec 4 := a.extractLsb' 6 1 ++ a.extractLsb' 0 3

/-- Paper index {bright, a[5:3]} (R143). -/
def paperIndex (a : Byte) : BitVec 4 := a.extractLsb' 6 1 ++ a.extractLsb' 3 3

/-- The attribute's flash bit a[7] (R143). -/
def flashBit (a : Byte) : Bool := a.getLsbD 7

/-- Pixel slot k of nibble n under attribute a: bit n[3−k] set selects ink (R144). -/
def selectPixel (p : Palette) (n : BitVec 4) (a : Byte) (k : Nat) : Byte :=
  if n.getLsbD (3 - k) then paletteAt p (inkIndex a) else paletteAt p (paperIndex a)

/-- AluEntry(n, a) (R145). -/
def aluEntry (p : Palette) (n : BitVec 4) (a : Byte) : Word :=
  pack (selectPixel p n a 0) (selectPixel p n a 1) (selectPixel p n a 2) (selectPixel p n a 3)

/-- BuildAluTable (R142). -/
def buildAluTable (p : Palette) : AluTable :=
  tabulate 16 fun n => tabulate 256 fun a => aluEntry p (BitVec.ofNat 4 n) (BitVec.ofNat 8 a)

/-- ALU[n][a] (R40). -/
def aluAt (t : AluTable) (n : BitVec 4) (a : Byte) : Word := (t.get n.toFin).get a.toFin

end Sys2Proof.Machine
end

