-- ==== Sys2Proof/Machine/Geometry.lean ====
section
/-! DEFINITION. scanline_geometry_precalc: offset tables, border words and the invalidated
border cache (spec/41_scanline_geometry.md R160 to R166). -/

namespace Sys2Proof.Machine

/-- BmpOff(i), "with i read as 8 bits" (R161). -/
def bmpOffset (i : Nat) : Nat :=
  let b := i % 256
  ((b &&& 0xC0) <<< 5) ||| ((b &&& 0x07) <<< 8) ||| ((b &&& 0x38) <<< 2)

/-- (i >> 3) · ROW_STRIDE + ATTR_BASE (R162). -/
def attrOffset (c : Cfg) (i : Nat) : Nat := (i / 8) * c.rowStride + c.attrBase

/-- BMP_OFF, SCREEN_LINES entries of 14 bits (R41, R160). -/
def buildBmpOff (c : Cfg) : List Offset :=
  (List.range c.screenLines).map fun i => BitVec.ofNat 14 (bmpOffset i)

/-- ATTR_OFF, SCREEN_LINES entries of 14 bits (R41, R160). DESIGN CHOICE: an offset of 16384, which
the checks admit only with SCREEN_CELLS = 0, wraps to 0 (log entry 17). -/
def buildAttrOff (c : Cfg) : List Offset :=
  (List.range c.screenLines).map fun i => BitVec.ofNat 14 (attrOffset c i)

/-- BORDER_WORD[c] = PALETTE[c] in all four bytes (R163). -/
def buildBorderWords (p : Palette) : BorderWords :=
  tabulate 8 fun c => replicate4 (paletteAt p (BitVec.ofNat 4 c))

/-- BORDER_WORD[col] (R42). -/
def borderWordAt (t : BorderWords) (c : Colour) : Word := t.get c.toFin

/-- The invalid sentinel of BCACHE (R43, R166). -/
def bcacheSentinel : Byte := 0xFF

/-- BCACHE with every entry invalid, one entry per frame-buffer row (R160, R166). -/
def invalidBcache (c : Cfg) : List Byte := List.replicate c.vres bcacheSentinel

end Sys2Proof.Machine
end

