-- ==== Sys2Proof/Machine/ModeCommands.lean ====
section
/-! DEFINITION. INIT and RESET (spec/44_host_commands.md R261 to R263). -/

namespace Sys2Proof.Machine

/-- All derived tables built from CFG, palette first (R98, R140, R142, R147, R160). -/
def buildTables (s : State) : State :=
  let palette := buildPalette s.cfg
  { s with
    palette := palette
    alu := buildAluTable palette
    bmpOff := buildBmpOff s.cfg
    attrOff := buildAttrOff s.cfg
    borderWord := buildBorderWords palette
    bcache := invalidBcache s.cfg }

/-- The raster position and counter after a successful INIT or RESET (R261, R331). -/
def resetRaster (s : State) : State :=
  { s with
    cyc := 0
    phase := .blank
    line := 0
    col := 0
    target := BitVec.ofNat 32 s.cfg.firstThresh
    carry := 0
    osdActive := false }

/-- The allocation succeeded: tables built, position reset, READY, status 0 (R261). -/
def initSucceeded (s : State) : State :=
  emit 0 { resetRaster (buildTables s) with vstat := .ready }

/-- The allocation failed: FAILED, the raster position and every table unspecified, status 1
(R261, R263; the unspecified values are log entry 3). -/
def initFailed (s : State) : State :=
  let u := Config.unspecified s.draws
  emit 1
    { s with
      vstat := .failed
      phase := u.phase
      line := u.line
      col := u.col
      target := u.target
      carry := u.carry
      cyc := u.cyc
      osdActive := u.osdActive
      palette := u.palette
      alu := u.alu
      bmpOff := u.bmpOff
      attrOff := u.attrOff
      borderWord := u.borderWord
      bcache := u.bcache
      draws := s.draws + 1 }

/-- alloc_ok: the outcome of the next table allocation, drawn from the state (R263; log entry 6). -/
def State.allocOk (s : State) : Bool := s.allocs.headD true

/-- INIT(m, a) and RESET(m, a), "exactly those of INIT" (R261, R262). -/
def initialise (m : Mode) (s : State) : State :=
  let t := { s with mode := m, allocs := s.allocs.tail }
  if s.allocOk then initSucceeded t else initFailed t

/-- INIT m, a (R261). -/
def execInit (m : Variant) (a : Aspect) (s : State) : Result :=
  applyCommand s (initialise ⟨m, a⟩)

/-- RESET m, a (R262). -/
def execReset (m : Variant) (a : Aspect) (s : State) : Result :=
  applyCommand s (initialise ⟨m, a⟩)

end Sys2Proof.Machine
end

