-- ==== Sys2Proof/Machine/Flags.lean ====
section
/-! DEFINITION. The block's 1-bit and status state (spec/10_state.md R55): the codes of PHASE,
MODE, VSTAT and FAULT, the draw variant OSD_ACTIVE, and the sub-state tests on PHASE. The block
has no condition codes and no arithmetic flags. -/

namespace Sys2Proof.Machine

/-- The number of a phase (R32). -/
def phaseCode : Phase → Nat
  | .blank => 0
  | .topWait => 1
  | .topDraw => 2
  | .mainWait => 3
  | .mainDraw => 4
  | .botWait => 5
  | .botDraw => 6

/-- MODE as 2 bits: bit 1 MACHINE, bit 0 ASPECT (R44). -/
def modeCode (m : Mode) : BitVec 2 :=
  (match m.variant with | .m48 => 0#1 | .m128 => 1#1) ++
    (match m.aspect with | .a43 => 0#1 | .a169 => 1#1)

/-- The number of a video status (R45). -/
def vstatCode : VStat → Nat
  | .uninit => 0
  | .ready => 1
  | .failed => 2

/-- The code of a fault kind (R301). -/
def faultCode : FaultKind → Nat
  | .illegalCommand => 1
  | .notReady => 2
  | .unwrittenInput _ => 3
  | .cycleOverflow => 4
  | .wrapUnderflow => 5
  | .boundsViolation => 6

/-- The draw sub-state a wait sub-state crosses into (R200, R205). -/
def drawOf : Phase → Phase
  | .topWait => .topDraw
  | .mainWait => .mainDraw
  | .botWait => .botDraw
  | p => p

/-- A wait sub-state (R200). -/
def isWait : Phase → Bool
  | .topWait => true
  | .mainWait => true
  | .botWait => true
  | _ => false

/-- A draw sub-state (R200). -/
def isDraw : Phase → Bool
  | .topDraw => true
  | .mainDraw => true
  | .botDraw => true
  | _ => false

/-- OSD_ACTIVE <- read(OSD_VISIBLE) (R205, R212). -/
def latchVariant (s : State) : State := readOsdVisible s fun v => { s with osdActive := v }

/-- Row r and unit u lie in the overlay rectangle, half-open in both (R211). -/
def Cfg.inOverlay (c : Cfg) (r u : Nat) : Bool :=
  decide (c.osdRowLo ≤ r) && decide (r < c.osdRowHi) &&
    decide (c.osdUnitLo ≤ u) && decide (u < c.osdUnitHi)

/-- The phases that have an overlay variant (R211). -/
def hasOverlayVariant : Phase → Bool
  | .mainDraw => true
  | .botDraw => true
  | _ => false

/-- Unit (r, u) is skipped (R211). -/
def State.skipped (s : State) (r u : Nat) : Bool :=
  s.osdActive && hasOverlayVariant s.phase && Cfg.inOverlay s.cfg r u

/-- Unit u is a screen unit: in MAIN_DRAW, inside the drawable column window (R201, R209). -/
def State.isScreenUnit (s : State) (u : Nat) : Bool :=
  decide (s.phase = .mainDraw) && decide (s.cfg.lb ≤ u) &&
    decide (u < s.cfg.lb + s.cfg.screenCells)

end Sys2Proof.Machine
end

