-- ==== Sys2Proof/Machine/LineWriter.lean ====
section
/-! DEFINITION. framebuffer_line_writer: border units and screen units
(spec/43_raster.md R208 to R215). -/

namespace Sys2Proof.Machine

/-- The two words of unit u of row r: words RWO + 2u and RWO + 2u + 1 (R85, R215). -/
def writePair (r u : Nat) (w0 w1 : Word) (s : State) : State :=
  andThen (fbWrite r (s.cfg.rwo + 2 * u) w0 s) (fbWrite r (s.cfg.rwo + 2 * u + 1) w1)

/-- BCACHE[r] <- col (R213). -/
def cacheBorder (r : Nat) (col : Colour) (s : State) : State :=
  { s with bcache := s.bcache.set r (col.setWidth 8) }

/-- BorderUnit(r, u) (R208). -/
def borderUnit (r u : Nat) (s : State) : State :=
  readBorder s fun col =>
    let w := borderWordAt s.borderWord col
    andThen (writePair r u w w s) (cacheBorder r col)

/-- The two words a screen unit writes: the high nibble first (R209). -/
def writeCell (r u : Nat) (a p : Byte) (s : State) : State :=
  writePair r u (aluAt s.alu (p.extractLsb' 4 4) a) (aluAt s.alu (p.extractLsb' 0 4) a) s

/-- The bitmap byte as shown: inverted when FLASH is 1, FLASH read only for an attribute with
its flash bit set (R210). -/
def withFlash (a p : Byte) (s : State) (use : Byte → State) : State :=
  if flashBit a then readFlash s fun f => use (if f then p ^^^ 0xFF else p) else use p

/-- ScreenUnit(r, u): cell u − LB of graphics line r − TB (R209). -/
def screenUnit (r u : Nat) (s : State) : State :=
  let g := r - s.cfg.tb
  let c := u - s.cfg.lb
  readLatch s fun bank =>
    let a := Memory.read s.vram bank (s.attributeOffset g c)
    let p := Memory.read s.vram bank (s.bitmapOffset g c)
    withFlash a p s fun shown => writeCell r u a shown s

/-- EmitUnit(PHASE, LINE, COL): skipped, screen or border (R208, R209, R211). -/
def emitUnit (s : State) : State :=
  if s.skipped s.line s.col then s
  else if s.isScreenUnit s.col then screenUnit s.line s.col s
  else borderUnit s.line s.col s

end Sys2Proof.Machine
end

