-- ==== Sys2Proof/Machine/Raster.lean ====
section
/-! DEFINITION. raster_state_machine: ADVANCE and FLUSH (spec/43_raster.md R200 to R226). -/

namespace Sys2Proof.Machine

/-- The phase and line after a row of phase `p` completes, `l` being the next row (R207). -/
def nextRow (c : Cfg) (p : Phase) (l : Nat) : Phase × Nat :=
  match p with
  | .topDraw => if l < c.tb then (.topWait, l) else (.mainWait, l)
  | .mainDraw => if l < c.tb + c.screenLines then (.mainWait, l) else (.botWait, l)
  | .botDraw => if l < c.vres then (.botWait, l) else (.blank, 0)
  | p => (p, l)

/-- RowDone() (R207). -/
def rowDone (s : State) : State :=
  let next := nextRow s.cfg s.phase (s.line + 1)
  { s with col := 0, phase := next.1, line := next.2 }

/-- The loop of DrawBody: emit whole units until k runs out or the row completes; the units left
in k are then dropped (R206). -/
def emitUnits : Nat → State → State
  | 0, s => s
  | k + 1, s =>
    andThen (emitUnit s) fun t =>
      let t := { t with col := t.col + 1 }
      if t.col = t.cfg.units then rowDone t else emitUnits k t

/-- DrawBody(b) (R206). -/
def drawBody (b : Nat) (s : State) : State :=
  let budget := b + s.carry.toNat
  emitUnits (budget / 4) { s with carry := BitVec.ofNat 32 (budget % 4) }

/-- BlankStep() (R203). -/
def blankStep (s : State) : State :=
  if s.cyc.toNat < s.cfg.firstThresh then
    { s with
      line := 0
      col := 0
      target := BitVec.ofNat 32 s.cfg.firstThresh
      phase := .topWait }
  else s

/-- The boundary crossing of WaitStep(), CYC ≥ TARGET: the writes in the rule's order, so that
an unwritten OSD_VISIBLE stops it before PHASE changes (R205). -/
def crossBoundary (s : State) : State :=
  andThen
    (latchVariant
      { s with
        carry := s.cyc - s.target
        target := s.target + BitVec.ofNat 32 s.cfg.cpl
        col := 0 })
    fun t => drawBody 0 { t with phase := drawOf t.phase }

/-- WaitStep() (R204, R205). -/
def waitStep (s : State) : State := if s.cyc < s.target then s else crossBoundary s

/-- The dispatch on PHASE after step 1 of ADVANCE (R202). -/
def phaseStep (n : Nat) (s : State) : State :=
  match s.phase with
  | .blank => blankStep s
  | .topWait => waitStep s
  | .mainWait => waitStep s
  | .botWait => waitStep s
  | .topDraw => drawBody n s
  | .mainDraw => drawBody n s
  | .botDraw => drawBody n s

/-- ADVANCE(n) (R202). -/
def advance (n : Nat) (s : State) : State :=
  if s.vstat ≠ .ready then raise .notReady s
  else if 2 ^ 32 ≤ s.cyc.toNat + n then raise .cycleOverflow s
  else phaseStep n { s with cyc := s.cyc + BitVec.ofNat 32 n }

/-- The loop `while CYC < CPF: ADVANCE(CPL)`, at most `k` passes (R217). -/
def flushPasses : Nat → State → State
  | 0, s => s
  | k + 1, s =>
    if s.cyc.toNat < s.cfg.cpf then andThen (advance s.cfg.cpl s) (flushPasses k) else s

/-- FLUSH() (R217). CPF − CYC passes are enough: each adds CPL ≥ 1 to CYC. -/
def flush (s : State) : State :=
  if s.vstat ≠ .ready then raise .notReady s
  else flushPasses (s.cfg.cpf - s.cyc.toNat) s

/-- ADVANCE n (R202). -/
def execAdvance (n : Count) (s : State) : Result :=
  applyCommand s (advance (zextCount n).toNat)

/-- FLUSH (R217). -/
def execFlush (s : State) : Result := applyCommand s flush

end Sys2Proof.Machine
end

