-- ==== Sys2Proof/Machine/Sampler.lean ====
section
/-! DEFINITION. floating_bus_sampler: SAMPLE (spec/42_floating_bus.md R180 to R189) and a SAMPLE
that lands inside a table rebuild (spec/70_reset_and_hazards.md R341). -/

namespace Sys2Proof.Machine

/-- The byte the sampler returns where no graphics fetch happens (R183, R184, R185). -/
def idleByte : Byte := 0xFF

/-- emit(VRAM(read(LATCH), off)) (R180, R186). -/
def emitFetched (off : Offset) (s : State) : State :=
  readLatch s fun bank => emit (Memory.read s.vram bank off) s

/-- The slot dispatch for graphics line g and line phase `phase` (R185). -/
def sampleSlot (g phase : Nat) (s : State) : State :=
  let c := 2 * (phase / 8)
  match phase % 8 with
  | 0 => emitFetched (s.bitmapOffset g c) s
  | 1 => emitFetched (s.attributeOffset g c) s
  | 2 => emitFetched (s.bitmapOffset g (c + 1)) s
  | 3 => emitFetched (s.attributeOffset g (c + 1)) s
  | _ => emit idleByte s

/-- The band and phase tests for an adjusted count t ≥ 0 (R183, R184). -/
def sampleAt (t : Nat) (s : State) : State :=
  let line := t / s.cfg.cpl
  let phase := t % s.cfg.cpl
  if line < s.cfg.fbLine0 ∨ s.cfg.fbLine0 + s.cfg.fbLines ≤ line then emit idleByte s
  else if s.cfg.firstHalf ≤ phase then emit idleByte s
  else sampleSlot (line - s.cfg.fbLine0) phase s

/-- SAMPLE(n) (R180); the offset is added as a signed integer (R182). -/
def sample (n : Nat) (s : State) : State :=
  if s.vstat ≠ .ready then raise .notReady s
  else
    let t : Int := (n : Int) + s.cfg.fbOffset
    if t < 0 then emit idleByte s else sampleAt t.toNat s

/-- SAMPLE n (R180). -/
def execSample (n : Count) (s : State) : Result :=
  applyCommand s (sample (zextCount n).toNat)

/-- A SAMPLE landing inside an INIT or RESET: an unspecified byte, nothing else, no fault
(R341; log entry 4). -/
def sampleInRebuild (s : State) : State :=
  emit (Config.rebuildByte s.draws) { s with draws := s.draws + 1 }

end Sys2Proof.Machine
end

