-- ==== Sys2Proof/Machine/Dispatch.lean ====
section
/-! DEFINITION. One arm per command (spec/30_encoding.md R114). -/

namespace Sys2Proof.Machine

def exec (i : Instr) (s : State) : Host.Outcome State Fault Refusal :=
  match i with
  | .init m a => Sys2Proof.Machine.execInit m a s
  | .reset m a => Sys2Proof.Machine.execReset m a s
  | .advance n => Sys2Proof.Machine.execAdvance n s
  | .flush => Sys2Proof.Machine.execFlush s
  | .sample n => Sys2Proof.Machine.execSample n s
  | .setBorder c => Sys2Proof.Machine.execSetBorder c s
  | .setOverlay v => Sys2Proof.Machine.execSetOverlay v s
  | .setFlash v => Sys2Proof.Machine.execSetFlash v s
  | .setLatch v => Sys2Proof.Machine.execSetLatch v s
  | .setCycles n => Sys2Proof.Machine.execSetCycles n s
  | .frameWrap => Sys2Proof.Machine.execFrameWrap s
  | .poke b o d => Sys2Proof.Machine.execPoke b o d s

end Sys2Proof.Machine
end

