-- ==== Sys2Proof/Machine/Fetch.lean ====
section
/-! DEFINITION. How the block takes what the host hands it (spec/00_scope.md R6, R7;
spec/60_exceptions.md R300 to R309): command words, the interrupt context's SAMPLE and the
overlay's stores. -/

namespace Sys2Proof.Machine

/-- A command word: decoding comes first, and a word that spells no command raises
IllegalCommand "and changes nothing else" (R115, R116, R302). -/
def applyWord (w : Word) (s : State) : Result :=
  match decode w with
  | .ok i => exec i s
  | .error _ => applyCommand s (raise .illegalCommand)

/-- A word that spells INIT or RESET (R261, R262). -/
def isModeCommand (w : Word) : Bool :=
  match decode w with
  | .ok (.init _ _) => true
  | .ok (.reset _ _) => true
  | _ => false

/-- The next main-context command of the list is an INIT or RESET: the rebuild a preempting
SAMPLE lands inside (R341). -/
def rebuildNext : List HostInput → Bool
  | .command w :: _ => isModeCommand w
  | .preemptingSample _ :: rest => rebuildNext rest
  | _ => false

/-- An interrupt-context SAMPLE marked as landing inside a rebuild; where no rebuild follows it
lands between commands, as every other SAMPLE of that context does (R309, R341; log entry 5). -/
def applyPreempting (n : Count) (s : State) : Result :=
  if rebuildNext s.inputs then applyCommand s sampleInRebuild else execSample n s

/-- The overlay's store to a frame-buffer word (R51, R99; log entry 8). -/
def overlayStore (r j : Nat) (w : Word) (s : State) : Result :=
  if s.fault.isSome then .next s
  else if s.inFrameBuffer r j then .next { s with fb := FrameBuffer.write s.fb r j w }
  else .fault .noSuchFrameBufferWord

/-- One item the host hands over; `s.inputs` is already what comes after it. -/
def applyInput (i : HostInput) (s : State) : Result :=
  match i with
  | .command w => applyWord w s
  | .interruptSample n => execSample n s
  | .preemptingSample n => applyPreempting n s
  | .overlayStore r j w => overlayStore r j w s

/-- Take the next item off the host's list and apply it. With nothing handed over the block does
nothing: "The block does nothing until a command is applied" (R330, R311). -/
def takeInput (s : State) : Result :=
  match s.inputs with
  | [] => .next s
  | i :: rest => applyInput i { s with inputs := rest }

/-- A command word put at the head of the host's list (log entry 5). -/
def issueWord (s : State) (w : Word) : State := { s with inputs := .command w :: s.inputs }

end Sys2Proof.Machine
end

