-- ==== Sys2Proof/Assembly.lean ====
section
/-! DEFINITION. The assembly form of a command list (spec/30_encoding.md R119) and its
pseudo-commands (R120), as syntax. Reading it from text and expanding it is
Sys2Proof/Machine/Assembler.lean; the operand ranges are Sys2Proof/WellFormed.lean. -/

namespace Sys2Proof

/-- The mnemonics of R119 and the three pseudo-commands of R120. -/
inductive AsmMnemonic where
  | init
  | reset
  | advance
  | flush
  | sample
  | setBorder
  | setOverlay
  | setFlash
  | setLatch
  | setCycles
  | frameWrap
  | poke
  | setup
  | endframe
  | line
  deriving DecidableEq, Repr

/-- An operand as written: a number, or an aspect ratio such as 4:3 (R119). -/
inductive AsmOperand where
  | number (n : Nat)
  | ratio (a b : Nat)
  deriving DecidableEq, Repr

/-- One line of a command list (R119). -/
structure AsmLine where
  mnemonic : AsmMnemonic
  operands : List AsmOperand
  deriving DecidableEq, Repr

end Sys2Proof
end

