-- ==== Sys2Proof/WellFormed.lean ====
section
/-! DEFINITION. What is refused before any command runs (spec/60_exceptions.md R312): a
configuration that breaks a check W1 to W8 of spec/00_scope.md R9, and an assembly line with
an operand out of its range (spec/30_encoding.md R119). W9 and the operand ranges of a decoded
command hold by the types of `Cfg` and `Instr`. -/

namespace Sys2Proof

/-- W1: HRES mod 4 = 0; WPR = HRES / 4 is `Cfg.wpr`. -/
abbrev Cfg.W1 (c : Cfg) : Prop := c.hres % 4 = 0

/-- W2: VRES = TB + SCREEN_LINES + BB with TB ≥ 1 and BB ≥ 1. -/
abbrev Cfg.W2 (c : Cfg) : Prop := c.vres = c.tb + c.screenLines + c.bb ∧ 1 ≤ c.tb ∧ 1 ≤ c.bb

/-- W3: RWO + 2·UNITS ≤ WPR; UNITS = LB + SCREEN_CELLS + RB is `Cfg.units`. -/
abbrev Cfg.W3 (c : Cfg) : Prop := c.rwo + 2 * c.units ≤ c.wpr

/-- W4: 1 ≤ CPL and 4·UNITS ≤ CPL. -/
abbrev Cfg.W4 (c : Cfg) : Prop := 1 ≤ c.cpl ∧ 4 * c.units ≤ c.cpl

/-- W5: 1 ≤ FIRST_THRESH and FIRST_THRESH + VRES·CPL ≤ CPF < 2^32. -/
abbrev Cfg.W5 (c : Cfg) : Prop :=
  1 ≤ c.firstThresh ∧ c.firstThresh + c.vres * c.cpl ≤ c.cpf ∧ c.cpf < 2 ^ 32

/-- W6: SCREEN_CELLS is even and FIRST_HALF ≤ 4·SCREEN_CELLS. -/
abbrev Cfg.W6 (c : Cfg) : Prop := c.screenCells % 2 = 0 ∧ c.firstHalf ≤ 4 * c.screenCells

/-- The offsets graphics line i forms stay inside a video bank (R9, R161, R162). -/
abbrev Cfg.OffsetsFit (c : Cfg) (i : Nat) : Prop :=
  Machine.bmpOffset i + c.screenCells ≤ 16384 ∧ Machine.attrOffset c i + c.screenCells ≤ 16384

/-- W7: for every i in [0, SCREEN_LINES), the offsets of line i fit. The lines are gone through
character row by character row, eight lines each, so that `decide` can run the check;
`Cfg.w7_iff` says it in the rule's form. -/
abbrev Cfg.W7 (c : Cfg) : Prop :=
  ∀ row < (c.screenLines + 7) / 8, ∀ k < 8, 8 * row + k < c.screenLines →
    c.OffsetsFit (8 * row + k)

/-- W8: the overlay rectangle lies in the frame. -/
abbrev Cfg.W8 (c : Cfg) : Prop :=
  c.osdRowLo ≤ c.osdRowHi ∧ c.osdRowHi ≤ c.vres ∧
    c.osdUnitLo ≤ c.osdUnitHi ∧ c.osdUnitHi ≤ c.units

/-- "A configuration is admitted only when all of these hold" (R9). -/
abbrev Cfg.Admitted (c : Cfg) : Prop :=
  c.W1 ∧ c.W2 ∧ c.W3 ∧ c.W4 ∧ c.W5 ∧ c.W6 ∧ c.W7 ∧ c.W8

/-- All four configurations are admitted (R9, R312). -/
def Configs.admitted (cs : Configs) : Bool :=
  decide cs.m48a43.Admitted && decide cs.m48a169.Admitted &&
    decide cs.m128a43.Admitted && decide cs.m128a169.Admitted

/-- m ∈ {48, 128} (or 0, 1) (R119). -/
abbrev AsmOperand.IsMachine (o : AsmOperand) : Prop :=
  o = .number 48 ∨ o = .number 128 ∨ o = .number 0 ∨ o = .number 1

/-- a ∈ {4:3, 16:9} (or 0, 1) (R119). -/
abbrev AsmOperand.IsAspect (o : AsmOperand) : Prop :=
  o = .ratio 4 3 ∨ o = .ratio 16 9 ∨ o = .number 0 ∨ o = .number 1

/-- A number below the bound (R119). -/
def AsmOperand.below (o : AsmOperand) (bound : Nat) : Bool :=
  match o with
  | .number n => decide (n < bound)
  | .ratio _ _ => false

/-- An assembly line with the operands its mnemonic asks for, each in its range (R119).
"An operand out of its range is an assembly error, not an encoding." -/
def AsmLine.wf (l : AsmLine) : Bool :=
  match l.mnemonic, l.operands with
  | .init, [m, a] => decide m.IsMachine && decide a.IsAspect
  | .reset, [m, a] => decide m.IsMachine && decide a.IsAspect
  | .setup, [m, a] => decide m.IsMachine && decide a.IsAspect
  | .advance, [n] => n.below (2 ^ 24)
  | .sample, [n] => n.below (2 ^ 24)
  | .setCycles, [n] => n.below (2 ^ 24)
  | .setBorder, [c] => c.below 8
  | .setOverlay, [v] => v.below 2
  | .setFlash, [v] => v.below 2
  | .setLatch, [v] => v.below 2
  | .poke, [b, o, d] => b.below 2 && o.below 16384 && d.below 256
  | .flush, [] => true
  | .frameWrap, [] => true
  | .endframe, [] => true
  | .line, [] => true
  | _, _ => false

end Sys2Proof
end

