-- ==== Sys2Proof/Machine/Step.lean ====
section
/-! DEFINITION. One step: a configuration that breaks a check of R9 is refused before any command
runs (spec/60_exceptions.md R312); otherwise the next item of the host's list is applied. -/

namespace Sys2Proof.Machine

def step (s : State) : Host.Outcome State Fault Refusal :=
  if s.configs.admitted then takeInput s else .refused .configurationNotAdmitted

/-- `s` with a word, numbered as spec/opcode_table.json numbers it, as the next command the main
context issues (log entry 5). -/
def State.withFetchWord (s : State) (nbits w : Nat) : State :=
  issueWord s (BitVec.ofNat 32 (w % 2 ^ nbits))

end Sys2Proof.Machine
end

