-- ==== Sys2Proof/Machine/Assembler.lean ====
section
/-! DEFINITION. The assembler of command lists (spec/30_encoding.md R119, R120): text to lines,
lines to commands, pseudo-commands expanded. A line with an assembly error refuses the whole list
before any command runs (spec/60_exceptions.md R312). -/

namespace Sys2Proof.Machine

/-! ### Lines to commands -/

/-- The MACHINE an operand names (R119). -/
def machineOfOperand : AsmOperand → Variant
  | .number 128 => .m128
  | .number 1 => .m128
  | _ => .m48

/-- The ASPECT an operand names (R119). -/
def aspectOfOperand : AsmOperand → Aspect
  | .ratio 16 9 => .a169
  | .number 1 => .a169
  | _ => .a43

/-- The number an operand writes. -/
def numberOfOperand : AsmOperand → Nat
  | .number n => n
  | .ratio _ _ => 0

/-- An operand as a field of w bits (R113). -/
def fieldOfOperand (w : Nat) (o : AsmOperand) : BitVec w := BitVec.ofNat w (numberOfOperand o)

/-- An operand as one bit (R119). -/
def bitOfOperand (o : AsmOperand) : Bool := numberOfOperand o == 1

/-- The five commands of `SETUP m, a`, in order (R120). -/
def setupCommands (m a : AsmOperand) : List Instr :=
  [ .setBorder 0, .setFlash false, .setOverlay false, .setLatch .bank0,
    .init (machineOfOperand m) (aspectOfOperand a) ]

/-- The commands of a line whose operands are in range; `cpl` is the CPL "the assembler is told",
which `LINE` advances by (R119, R120). -/
def commandsOf (cpl : Nat) (l : AsmLine) : Option (List Instr) :=
  match l.mnemonic, l.operands with
  | .init, [m, a] => some [.init (machineOfOperand m) (aspectOfOperand a)]
  | .reset, [m, a] => some [.reset (machineOfOperand m) (aspectOfOperand a)]
  | .advance, [n] => some [.advance (fieldOfOperand 24 n)]
  | .flush, [] => some [.flush]
  | .sample, [n] => some [.sample (fieldOfOperand 24 n)]
  | .setBorder, [c] => some [.setBorder (fieldOfOperand 3 c)]
  | .setOverlay, [v] => some [.setOverlay (bitOfOperand v)]
  | .setFlash, [v] => some [.setFlash (bitOfOperand v)]
  | .setLatch, [v] => some [.setLatch (bankOfBit (bitOfOperand v))]
  | .setCycles, [n] => some [.setCycles (fieldOfOperand 24 n)]
  | .frameWrap, [] => some [.frameWrap]
  | .poke, [b, o, d] =>
    some [.poke (bankOfBit (bitOfOperand b)) (fieldOfOperand 14 o) (fieldOfOperand 8 d)]
  | .setup, [m, a] => some (setupCommands m a)
  | .endframe, [] => some [.flush, .frameWrap]
  | .line, [] => if cpl < 2 ^ 24 then some [.advance (BitVec.ofNat 24 cpl)] else none
  | _, _ => none

/-- One line: an operand out of its range is an assembly error (R119). -/
def assembleLine (cpl : Nat) (l : AsmLine) : Option (List Instr) :=
  if l.wf then commandsOf cpl l else none

/-- A command list; one assembly error refuses it whole (R119, R312). -/
def assemble (cpl : Nat) : List AsmLine → Option (List Instr)
  | [] => some []
  | l :: rest =>
    match assembleLine cpl l, assemble cpl rest with
    | some is, some more => some (is ++ more)
    | _, _ => none

/-! ### Text to lines -/

/-- The mnemonics, in capitals (R119, R120). -/
def mnemonicNames : List (String × AsmMnemonic) :=
  [ ("INIT", .init), ("RESET", .reset), ("ADVANCE", .advance), ("FLUSH", .flush),
    ("SAMPLE", .sample), ("SET_BORDER", .setBorder), ("SET_OVERLAY", .setOverlay),
    ("SET_FLASH", .setFlash), ("SET_LATCH", .setLatch), ("SET_CYCLES", .setCycles),
    ("FRAME_WRAP", .frameWrap), ("POKE", .poke), ("SETUP", .setup), ("ENDFRAME", .endframe),
    ("LINE", .line) ]

def isBlankChar (c : Char) : Bool := c == ' ' || c == '\t'

def trimChars (cs : List Char) : List Char :=
  ((cs.dropWhile isBlankChar).reverse.dropWhile isBlankChar).reverse

/-- The parts between the separators; always at least one. -/
def splitAt (sep : Char) : List Char → List (List Char)
  | [] => [[]]
  | c :: cs =>
    if c == sep then [] :: splitAt sep cs
    else
      match splitAt sep cs with
      | [] => [[c]]
      | part :: parts => (c :: part) :: parts

/-- A digit's value, letters of either case for hexadecimal. -/
def digitValue (c : Char) : Nat :=
  if '0' ≤ c ∧ c ≤ '9' then c.toNat - 48
  else if 'a' ≤ c ∧ c ≤ 'f' then c.toNat - 87
  else if 'A' ≤ c ∧ c ≤ 'F' then c.toNat - 55
  else 16

/-- A numeral in a base: at least one digit, every digit below the base. -/
def readNumeral (base : Nat) (cs : List Char) : Option Nat :=
  if cs.isEmpty || cs.any fun c => decide (base ≤ digitValue c) then none
  else some (cs.foldl (fun n c => n * base + digitValue c) 0)

/-- A number in decimal or `0x` hexadecimal (R119). -/
def readNumber : List Char → Option Nat
  | '0' :: 'x' :: cs => readNumeral 16 cs
  | cs => readNumeral 10 cs

/-- An operand: a number, or two decimal numbers with a colon between them (R119). -/
def readOperand (cs : List Char) : Option AsmOperand :=
  match splitAt ':' (trimChars cs) with
  | [n] => (readNumber n).map .number
  | [a, b] =>
    match readNumeral 10 a, readNumeral 10 b with
    | some a, some b => some (.ratio a b)
    | _, _ => none
  | _ => none

/-- Operands separated by commas; none for an empty text (R119). -/
def readOperands (cs : List Char) : Option (List AsmOperand) :=
  if (trimChars cs).isEmpty then some []
  else (splitAt ',' cs).mapM readOperand

/-- One line of text: `;` starts a comment, a line with nothing else is no line (R119).
`some none` is an empty line, `none` an assembly error. -/
def readLine (text : List Char) : Option (Option AsmLine) :=
  let body := trimChars (text.takeWhile (· != ';'))
  if body.isEmpty then some none
  else
    let name := body.takeWhile fun c => !isBlankChar c
    match mnemonicNames.find? fun e => e.1.toList == name with
    | none => none
    | some e => (readOperands (body.drop name.length)).map fun ops => some ⟨e.2, ops⟩

/-- A command list as text, one line each, to its command words (R119). -/
def assembleText (cpl : Nat) (lines : List (List Char)) : Option (List Word) :=
  match lines.mapM readLine with
  | none => none
  | some ls => (assemble cpl (ls.filterMap id)).map (List.map encode)

end Sys2Proof.Machine
end

