-- ==== Sys2Proof/Safety.lean ====
section
/-! DEFINITION. What counts as a safe state: the invariants of spec/10_state.md R54, of the derived
tables (spec/20_memory.md R98) and of the storage forms, in the terms the claims use. -/

namespace Sys2Proof

/-- A configuration with at least one graphics line and one unit in a row. The checks W1 to W9
admit SCREEN_LINES = 0 and UNITS = 0, for which the ranges of R33 and R34 are empty in
MAIN_WAIT and in every draw sub-state, so R54 is claimed for drawable configurations only
(log entry 9). -/
abbrev Cfg.Drawable (c : Cfg) : Prop := 0 < c.screenLines ∧ 0 < c.units

/-- All four configurations are drawable. -/
abbrev Configs.Drawable (cs : Configs) : Prop :=
  Cfg.Drawable cs.m48a43 ∧ Cfg.Drawable cs.m48a169 ∧ Cfg.Drawable cs.m128a43 ∧
    Cfg.Drawable cs.m128a169

end Sys2Proof

namespace Sys2Proof.Machine

/-- Able to take commands: VSTAT = READY and FAULT = none (R54, R301). -/
abbrev State.Running (s : State) : Prop := s.vstat = .ready ∧ s.fault = none

/-- Every host-written input holds a value, not ⊥ (R46). -/
abbrev State.InputsWritten (s : State) : Prop :=
  s.border.isSome = true ∧ s.flash.isSome = true ∧ s.osdVisible.isSome = true ∧
    s.latch.isSome = true

/-- LINE lies in the range of its phase (R33). -/
abbrev LineInRange (c : Cfg) (p : Phase) (l : Nat) : Prop :=
  (p = .blank → l = 0) ∧
  (p = .topWait ∨ p = .topDraw → l < c.tb) ∧
  (p = .mainWait ∨ p = .mainDraw → c.tb ≤ l ∧ l < c.tb + c.screenLines) ∧
  (p = .botWait ∨ p = .botDraw → c.tb + c.screenLines ≤ l ∧ l < c.vres)

/-- COL lies in the range of its phase (R34). -/
abbrev ColInRange (c : Cfg) (p : Phase) (u : Nat) : Prop :=
  (isDraw p = false → u = 0) ∧ (isDraw p = true → u < c.units)

/-- TARGET is the line boundary of its phase and row (R35). -/
abbrev TargetInRange (c : Cfg) (p : Phase) (l t : Nat) : Prop :=
  (p = .blank → t = c.rowStart 0 ∨ t = c.rowStart c.vres) ∧
  (isWait p = true → t = c.rowStart l) ∧
  (isDraw p = true → t = c.rowStart (l + 1))

/-- "Between commands, with VSTAT = READY and FAULT = none, these hold" (R54). -/
def State.PositionOk (s : State) : Prop :=
  s.Running →
    LineInRange s.cfg s.phase s.line ∧ ColInRange s.cfg s.phase s.col ∧
      TargetInRange s.cfg s.phase s.line s.target.toNat ∧ s.carry.toNat < 4

/-- A BCACHE entry: a border colour index or the sentinel (R43). -/
abbrev BcacheEntryOk (e : Byte) : Prop := e.toNat < 8 ∨ e = bcacheSentinel

/-- With VSTAT = READY every derived table is the one built from CFG (R98, R147), and BCACHE has
one entry per row (R43). -/
def State.TablesOk (s : State) : Prop :=
  s.vstat = .ready →
    s.palette = buildPalette s.cfg ∧ s.alu = buildAluTable (buildPalette s.cfg) ∧
      s.bmpOff = buildBmpOff s.cfg ∧ s.attrOff = buildAttrOff s.cfg ∧
      s.borderWord = buildBorderWords (buildPalette s.cfg) ∧
      s.bcache.length = s.cfg.vres ∧ ∀ e ∈ s.bcache, BcacheEntryOk e

/-- Video memory and the frame buffer are in canonical form. -/
abbrev State.StorageOk (s : State) : Prop :=
  Memory.wf s.vram = true ∧ FrameBuffer.wf s.fb = true

end Sys2Proof.Machine
end

