-- ==== Sys2Proof/Certificates/Slice0/Obligations.lean ====
section
/-! DEFINITION. The statements for the provers, in the spec's order: encoding, faults, mode commands,
tables, sampler, raster machine, host commands, the whole machine. `Claims` holds the terms they are
written in; a term there is the spec's own expression, not a function of the model, wherever the
model has one of its own. -/

open Sys2Proof Sys2Proof.Machine

namespace Sys2Proof.Claims

/-- Apply a command list, one command after another. -/
def runCommands : List Instr → State → Result
  | [], s => .next s
  | i :: rest, s =>
    match exec i s with
    | .next t => runCommands rest t
    | .fault f => .fault f
    | .refused r => .refused r

/-- `t` is what a successful INIT m, a leaves of an unfaulted state `s`. -/
abbrev AfterInit (m : Variant) (a : Aspect) (s t : State) : Prop :=
  s.fault = none ∧ exec (.init m a) s = .next t ∧ t.vstat = .ready

/-- The conditions under which the raster machine draws without a fault: READY, no fault, inputs
written, configurations admitted (R9) and drawable (log entry 9), and the position as R54 says. -/
abbrev CanDraw (s : State) : Prop :=
  s.Running ∧ s.InputsWritten ∧ s.configs.admitted = true ∧ s.configs.Drawable ∧ s.PositionOk

/-- CYC + n, the count after step 1 of ADVANCE n (R202). -/
abbrev cycAfter (s : State) (n : Count) : Nat := s.cyc.toNat + n.toNat

/-- CYC + n fits 32 bits (R202). -/
abbrev NoOverflow (s : State) (n : Count) : Prop := cycAfter s n < 2 ^ 32

/-- The phase and line after row `l` completes: the wait sub-state of the phase the next row
belongs to, or BLANK with LINE 0 after the last row (R207). -/
def afterRow (c : Cfg) (l : Nat) : Phase × Nat :=
  if l + 1 < c.tb then (.topWait, l + 1)
  else if l + 1 < c.tb + c.screenLines then (.mainWait, l + 1)
  else if l + 1 < c.vres then (.botWait, l + 1)
  else (.blank, 0)

/-- The draw sub-state of the phase row `r` belongs to (R201). -/
def drawPhaseOf (c : Cfg) (r : Nat) : Phase :=
  if r < c.tb then .topDraw else if r < c.tb + c.screenLines then .mainDraw else .botDraw

/-- Unit (r, u) is skipped under draw variant `osd` in phase `p` (R211). -/
abbrev Skipped (c : Cfg) (osd : Bool) (p : Phase) (r u : Nat) : Prop :=
  osd = true ∧ (p = .mainDraw ∨ p = .botDraw) ∧ c.osdRowLo ≤ r ∧ r < c.osdRowHi ∧
    c.osdUnitLo ≤ u ∧ u < c.osdUnitHi

/-- Unit u shows a cell in phase `p` (R201, R209). -/
abbrev ShowsCell (c : Cfg) (p : Phase) (u : Nat) : Prop :=
  p = .mainDraw ∧ c.lb ≤ u ∧ u < c.lb + c.screenCells

/-- ATTR_OFF[g] + c (R209). -/
abbrev attrAt (s : State) (g c : Nat) : Offset := s.attrOff.getD g 0 + BitVec.ofNat 14 c

/-- BMP_OFF[g] + c (R209). -/
abbrev bmpAt (s : State) (g c : Nat) : Offset := s.bmpOff.getD g 0 + BitVec.ofNat 14 c

/-- The bitmap byte as shown: inverted when the attribute's bit 7 and FLASH are both 1 (R210). -/
abbrev shownByte (a p : Byte) (flash : Bool) : Byte :=
  if a.getLsbD 7 = true ∧ flash = true then p ^^^ 0xFF else p

/-- The two words unit (r, u) writes, under the tables and video memory of `s` and the input values
given; none when it is skipped (R208, R209, R210, R211). -/
def unitWords (s : State) (osd : Bool) (p : Phase) (col : Colour) (b : Bank) (f : Bool)
    (r u : Nat) : Option (Word × Word) :=
  if Skipped s.cfg osd p r u then none
  else if ShowsCell s.cfg p u then
    let a := Memory.read s.vram b (attrAt s (r - s.cfg.tb) (u - s.cfg.lb))
    let q := shownByte a (Memory.read s.vram b (bmpAt s (r - s.cfg.tb) (u - s.cfg.lb))) f
    some (aluAt s.alu (q.extractLsb' 4 4) a, aluAt s.alu (q.extractLsb' 0 4) a)
  else some (borderWordAt s.borderWord col, borderWordAt s.borderWord col)

/-- The whole units ADVANCE n has the budget for, before the row's end cuts them off: n + CARRY in
a draw sub-state, the overshoot at a crossing (R205, R206). -/
def unitsDue (s : State) (n : Count) : Nat :=
  if isDraw s.phase = true then (n.toNat + s.carry.toNat) / 4
  else if isWait s.phase = true then (cycAfter s n - s.target.toNat) / 4
  else 0

/-- The first unit ADVANCE n leaves unemitted in the row (R206). -/
def unitsEnd (s : State) (n : Count) : Nat := min (s.col + unitsDue s n) s.cfg.units

/-- Unit (r, u) of the frame buffer `fb` holds the two words `words` gives it; a skipped unit holds
what `old` held there (R208, R209, R211). -/
def UnitHolds (c : Cfg) (old fb : FrameBuffer) (r u : Nat) (words : Option (Word × Word)) : Prop :=
  let j := c.rwo + 2 * u
  match words with
  | none => FrameBuffer.read fb r j = FrameBuffer.read old r j ∧
      FrameBuffer.read fb r (j + 1) = FrameBuffer.read old r (j + 1)
  | some (w0, w1) => FrameBuffer.read fb r j = w0 ∧ FrameBuffer.read fb r (j + 1) = w1

/-- The input unit (r, u) finds unwritten under draw variant `osd` in phase `p`, none when it finds
every input it reads (R46, R208, R209, R210, R211). -/
def blockedOn (s : State) (osd : Bool) (p : Phase) (r u : Nat) : Option Input :=
  if Skipped s.cfg osd p r u then none
  else if ShowsCell s.cfg p u then
    match s.latch with
    | none => some .latch
    | some b =>
      if (Memory.read s.vram b (attrAt s (r - s.cfg.tb) (u - s.cfg.lb))).getLsbD 7 = true ∧
        s.flash = none then some .flash else none
  else if s.border = none then some .border else none

/-- The next main-context command of the list is a word that decodes to INIT or RESET, with only
SAMPLEs marked as landing inside it before it (R341, log entry 5). -/
def RebuildFollows (rest : List HostInput) : Prop :=
  ∃ (ns : List Count) (w : Word) (more : List HostInput) (i : Instr),
    rest = ns.map .preemptingSample ++ .command w :: more ∧ decode w = .ok i ∧
      ((∃ m a, i = .init m a) ∨ ∃ m a, i = .reset m a)

/-- The operand form of a mnemonic, without the operands' ranges (R119, R120). -/
def HasForm (ops : List AsmOperand) : AsmMnemonic → Prop
  | .init | .reset | .setup => ∃ m a, ops = [m, a]
  | .advance | .sample | .setCycles | .setBorder | .setOverlay | .setFlash | .setLatch =>
    ∃ n, ops = [.number n]
  | .poke => ∃ b o d, ops = [.number b, .number o, .number d]
  | .flush | .frameWrap | .endframe | .line => ops = []

/-- The commands of the main context that write nothing SAMPLE reads (R96). -/
def SampleIndependent : Instr → Prop
  | .advance _ => True
  | .flush => True
  | .setBorder _ => True
  | .setFlash _ => True
  | .setOverlay _ => True
  | .setCycles _ => True
  | _ => False

/-- INIT or RESET. -/
def IsModeCommand : Instr → Prop
  | .init _ _ => True
  | .reset _ _ => True
  | _ => False

/-- The adjusted count of SAMPLE, as a signed integer (R182). -/
abbrev adjusted (s : State) (n : Count) : Int := (n.toNat : Int) + s.cfg.fbOffset

/-- The phases a completed row of phase `p` can lead to (R200, R207). -/
def rowSuccessors : Phase → List Phase
  | .topDraw => [.topWait, .mainWait]
  | .mainDraw => [.mainWait, .botWait]
  | .botDraw => [.botWait, .blank]
  | _ => []

/-- Where the raster machine is at cycle count `cyc` when the host is on time (R221 part 3). -/
def onTimePosition (c : Cfg) (cyc : Nat) : Phase × Nat × Nat :=
  if cyc < c.firstThresh then (.topWait, 0, 0)
  else
    let r := min ((cyc - c.firstThresh) / c.cpl) (c.vres - 1)
    let k := min c.units ((cyc - c.rowStart r) / 4)
    if k < c.units then (drawPhaseOf c r, r, k)
    else ((afterRow c r).1, (afterRow c r).2, 0)

end Sys2Proof.Claims

open Sys2Proof.Claims

/-! ### Encoding (spec/30_encoding.md) -/

/-- Every command is read back from its own word, with every operand at every value (R112, R118). -/
def Obligations.DecodeEncodeAgree : Prop := ∀ i : Instr, decode (encode i) = .ok i

/-- Every legal word is the word of the command it decodes to: no word has a don't-care bit
(R112, R116, R117). -/
def Obligations.DecodedWordEncodesBack : Prop :=
  ∀ (w : Word) (i : Instr), decode w = .ok i → encode i = w

/-- R115: a reserved OP spells no command; applying it raises IllegalCommand and changes nothing
else (the list the host hands over moves on). The all-zero word is one. -/
def Obligations.ReservedOpcodeRaisesIllegalCommand : Prop :=
  (∀ w : Word, opField w = 0x0 ∨ opField w = 0xD ∨ opField w = 0xE ∨ opField w = 0xF →
    (∀ i, decode w ≠ .ok i) ∧
    ∀ (s : State) (rest : List HostInput), s.configs.admitted = true → s.fault = none →
      s.inputs = .command w :: rest →
      step s = .next { s with inputs := rest, fault := some .illegalCommand }) ∧
  opField 0 = 0x0

/-- R116: a defined OP with a reserved bit set spells no command and raises IllegalCommand; the
legal words are those matching a row's mask and pattern. -/
def Obligations.ReservedBitRaisesIllegalCommand : Prop :=
  (∀ w : Word, (∃ i, decode w = .ok i) ↔ ∃ row ∈ opcodeTable, w &&& row.mask = row.pattern) ∧
  ∀ (w : Word) (row : OpcodeRow), row ∈ opcodeTable → opField w = row.op →
    w &&& row.mask ≠ row.pattern →
    ∀ (s : State) (rest : List HostInput), s.configs.admitted = true → s.fault = none →
      s.inputs = .command w :: rest →
      step s = .next { s with inputs := rest, fault := some .illegalCommand }

/-- Words written out from R112's six formats decode to their commands, and words of the two illegal
kinds to none (V80 to V102). -/
def Obligations.WordsOfTheSpecDecode : Prop :=
  decode 0b00010000000000000000000000000011 = .ok (.init .m128 .a169) ∧
  decode 0b00100000000000000000000000000010 = .ok (.reset .m128 .a43) ∧
  decode 0b00110000111111111111111111111111 = .ok (.advance 16777215) ∧
  decode 0b01000000000000000000000000000000 = .ok .flush ∧
  decode 0b10110000000000000000000000000000 = .ok .frameWrap ∧
  decode 0b01010000000000000011100000000000 = .ok (.sample 14336) ∧
  decode 0b01100000000000000000000000000110 = .ok (.setBorder 6) ∧
  decode 0b01110000000000000000000000000001 = .ok (.setOverlay true) ∧
  decode 0b10010000000000000000000000000001 = .ok (.setLatch .bank1) ∧
  decode 0b11000000011111111111111111111111 = .ok (.poke .bank1 0x3FFF 0xFF) ∧
  decode 0b11000000000110000000000000111000 = .ok (.poke .bank0 0x1800 0x38) ∧
  decode 0b00110001000000000000000000000000 = .error .reservedBits ∧
  decode 0b11010000000000000000000000000000 = .error .reservedOpcode

/-- When the host's next item is a word that decodes to i, a step is exec of i on the state with
that item taken; and `withFetchWord` hands over exactly the word it is given (R6, R118). -/
def Obligations.StepRunsTheDecodedCommand : Prop :=
  (∀ (s : State) (w : Word) (rest : List HostInput) (i : Instr), s.configs.admitted = true →
    s.inputs = .command w :: rest → decode w = .ok i → step s = exec i { s with inputs := rest }) ∧
  ∀ (s : State) (i : Instr), s.configs.admitted = true →
    step (s.withFetchWord 32 (encode i).toNat) = exec i s

/-! ### Power-on, configurations and faults (spec/60_exceptions.md, spec/70_reset_and_hazards.md) -/

/-- R330: the power-on values the spec gives, and a block with no command applied does nothing. The
values of the "unspecified" elements are the model's (log entry 1) and not stated. -/
def Obligations.PowerOnWaitsForACommand : Prop :=
  (State.reset.vstat = .uninit ∧ State.reset.fault = none ∧ State.reset.out = [] ∧
    State.reset.border = none ∧ State.reset.flash = none ∧ State.reset.osdVisible = none ∧
    State.reset.latch = none) ∧
  step State.reset = .next State.reset ∧
  ∀ s : State, s.configs.admitted = true → s.inputs = [] → step s = .next s

/-- A configuration that breaks a check is refused before any command runs, and each reference
configuration satisfies the checks with any overlay rectangle meeting W8 (R9, R312). That all four
configurations are looked at, and that the refusal comes at every step, is the model's reading
(log entry 13). -/
def Obligations.OnlyAdmittedConfigurationsRun : Prop :=
  (∀ s : State, s.configs.admitted = false → step s = .refused .configurationNotAdmitted) ∧
  (∀ (cs : Configs), cs.admitted = true ↔ ∀ m : Mode, (cs.select m).Admitted) ∧
  ∀ (m : Mode) (rowLo rowHi unitLo unitHi : Nat),
    let c := { referenceCfg m with
      osdRowLo := rowLo, osdRowHi := rowHi, osdUnitLo := unitLo, osdUnitHi := unitHi }
    c.W8 → c.Admitted

/-- FAULT is none at power-on; once it holds a kind the block takes no further step and every command
leaves all of it unchanged (R53, R300). That a step then also drops an overlay's store, which is no
command, is the model's choice (log entry 8). -/
def Obligations.FaultIsFinal : Prop :=
  State.reset.fault = none ∧
  ∀ (s : State) (k : FaultKind), s.fault = some k →
    (∀ i : Instr, exec i s = .next s) ∧
    (s.configs.admitted = true → step s = .next { s with inputs := s.inputs.tail })

/-- The checks made before a command runs, in their order: NotReady first, then CycleOverflow for
ADVANCE and WrapUnderflow for FRAME_WRAP; each raises its fault and changes nothing else
(R301, R302, R58). -/
def Obligations.EntryChecksRaiseInOrder : Prop :=
  ∀ s : State, s.fault = none →
    (s.vstat ≠ .ready →
      (∀ n, exec (.advance n) s = .next { s with fault := some .notReady }) ∧
      exec .flush s = .next { s with fault := some .notReady } ∧
      (∀ n, exec (.sample n) s = .next { s with fault := some .notReady }) ∧
      exec .frameWrap s = .next { s with fault := some .notReady }) ∧
    (s.vstat = .ready →
      (∀ n, 2 ^ 32 ≤ cycAfter s n →
        exec (.advance n) s = .next { s with fault := some .cycleOverflow }) ∧
      (s.cyc.toNat < s.cfg.cpf →
        exec .frameWrap s = .next { s with fault := some .wrapUnderflow }))

/-- `read(I)` of an input that holds ⊥ stops ADVANCE at that read, the writes made before it kept
(R46, R205, R300, R301). First, OSD_VISIBLE at a crossing. Second, in any state, the first unit of
the draw body of a draw sub-state: BORDER for a border unit, LATCH for a screen unit, FLASH for a
screen unit whose attribute has bit 7 set. Third, from a state as R54 says and under admitted and
drawable configurations (log entry 9), any unit u of the draw body of a draw sub-state or of a
crossing: the units before u stay emitted, with their words and their BCACHE entry, and COL is u. -/
def Obligations.UnwrittenInputStopsAdvance : Prop :=
  (∀ (s : State) (n : Count), s.Running → isWait s.phase = true → NoOverflow s n →
    s.target.toNat ≤ cycAfter s n → s.osdVisible = none →
    exec (.advance n) s = .next
      { s with
        cyc := BitVec.ofNat 32 (cycAfter s n)
        carry := BitVec.ofNat 32 (cycAfter s n - s.target.toNat)
        target := s.target + BitVec.ofNat 32 s.cfg.cpl
        col := 0
        fault := some (.unwrittenInput .osdVisible) }) ∧
  (∀ (s : State) (n : Count), s.Running → isDraw s.phase = true → NoOverflow s n →
    4 ≤ n.toNat + s.carry.toNat → ¬ Skipped s.cfg s.osdActive s.phase s.line s.col →
    let stopped (i : Input) : State :=
      { s with
        cyc := BitVec.ofNat 32 (cycAfter s n)
        carry := BitVec.ofNat 32 ((n.toNat + s.carry.toNat) % 4)
        fault := some (.unwrittenInput i) }
    (¬ ShowsCell s.cfg s.phase s.col → s.border = none →
      exec (.advance n) s = .next (stopped .border)) ∧
    (ShowsCell s.cfg s.phase s.col → s.latch = none →
      exec (.advance n) s = .next (stopped .latch)) ∧
    ∀ b, ShowsCell s.cfg s.phase s.col → s.latch = some b → s.flash = none →
      (Memory.read s.vram b
        (attrAt s (s.line - s.cfg.tb) (s.col - s.cfg.lb))).getLsbD 7 = true →
      exec (.advance n) s = .next (stopped .flash)) ∧
  ∀ (s : State) (n : Count) (osd : Bool) (u : Nat) (i : Input), s.Running →
    s.configs.admitted = true → s.configs.Drawable → s.PositionOk → NoOverflow s n →
    (isDraw s.phase = true ∧ osd = s.osdActive ∨
      isWait s.phase = true ∧ s.osdVisible = some osd ∧ s.target.toNat ≤ cycAfter s n) →
    s.col ≤ u → u < unitsEnd s n →
    (∀ u', s.col ≤ u' → u' < u → blockedOn s osd (drawOf s.phase) s.line u' = none) →
    blockedOn s osd (drawOf s.phase) s.line u = some i →
    let budget := if isWait s.phase = true then cycAfter s n - s.target.toNat
      else n.toNat + s.carry.toNat
    let paintsBorder (u' : Nat) : Prop :=
      ¬ Skipped s.cfg osd (drawOf s.phase) s.line u' ∧ ¬ ShowsCell s.cfg (drawOf s.phase) u'
    ∃ t, exec (.advance n) s = .next t ∧
      t = { s with
        cyc := BitVec.ofNat 32 (cycAfter s n)
        carry := BitVec.ofNat 32 (budget % 4)
        target := if isWait s.phase = true then s.target + BitVec.ofNat 32 s.cfg.cpl else s.target
        osdActive := osd
        phase := drawOf s.phase
        col := u
        fb := t.fb
        bcache := t.bcache
        fault := some (.unwrittenInput i) } ∧
      (∀ u', s.col ≤ u' → u' < u → UnitHolds s.cfg s.fb t.fb s.line u'
        (unitWords s osd (drawOf s.phase) (s.border.getD 0) (s.latch.getD .bank0)
          (s.flash.getD false) s.line u')) ∧
      (∀ r j, ¬ (r = s.line ∧ s.cfg.rwo + 2 * s.col ≤ j ∧ j < s.cfg.rwo + 2 * u) →
        FrameBuffer.read t.fb r j = FrameBuffer.read s.fb r j) ∧
      ((∃ u', s.col ≤ u' ∧ u' < u ∧ paintsBorder u') →
        t.bcache = s.bcache.set s.line ((s.border.getD 0).setWidth 8)) ∧
      ((∀ u', s.col ≤ u' → u' < u → ¬ paintsBorder u') → t.bcache = s.bcache)

/-! ### Mode commands (spec/44_host_commands.md) -/

/-- INIT and RESET with a successful allocation: MODE, every table, the raster position, CYC and
VSTAT take the values of R261, 0 is appended to OUT, and nothing else of the block changes. (That
the draw is true when no outcome is listed is the model's choice, log entry 6.) -/
def Obligations.SuccessfulInitBuildsEverything : Prop :=
  ∀ (m : Variant) (a : Aspect) (s : State), s.fault = none → s.allocs.headD true = true →
    let c := s.configs.select ⟨m, a⟩
    let t : State :=
      { s with
        mode := ⟨m, a⟩
        vstat := .ready
        phase := .blank
        line := 0
        col := 0
        target := BitVec.ofNat 32 c.firstThresh
        carry := 0
        cyc := 0
        osdActive := false
        palette := buildPalette c
        alu := buildAluTable (buildPalette c)
        bmpOff := buildBmpOff c
        attrOff := buildAttrOff c
        borderWord := buildBorderWords (buildPalette c)
        bcache := List.replicate c.vres 0xFF
        out := s.out ++ [0]
        allocs := s.allocs.tail }
    exec (.init m a) s = .next t ∧ exec (.reset m a) s = .next t

/-- INIT and RESET with a failed allocation: VSTAT = FAILED, status 1 on OUT, the raster position
and every table unspecified (some `u`, of which nothing is said), and BORDER, FLASH, OSD_VISIBLE,
LATCH, VRAM, FB and FAULT unchanged (R57, R261, R263, R303). -/
def Obligations.FailedInitLeavesNothingReadable : Prop :=
  ∀ (m : Variant) (a : Aspect) (s : State), s.fault = none → s.allocs.headD true = false →
    ∃ u : Unspecified,
      let t : State :=
        { s with
          mode := ⟨m, a⟩
          vstat := .failed
          phase := u.phase
          line := u.line
          col := u.col
          target := u.target
          carry := u.carry
          cyc := u.cyc
          osdActive := u.osdActive
          palette := u.palette
          alu := u.alu
          bmpOff := u.bmpOff
          attrOff := u.attrOff
          borderWord := u.borderWord
          bcache := u.bcache
          out := s.out ++ [1]
          allocs := s.allocs.tail
          draws := s.draws + 1 }
      exec (.init m a) s = .next t ∧ exec (.reset m a) s = .next t

/-- R262: RESET has the format of INIT with OP 0x2 and exactly its semantics; the rule's example,
the word 0x20000003, under the reference configurations. -/
def Obligations.ResetIsInit : Prop :=
  (∀ (m : Variant) (a : Aspect) (s : State), exec (.reset m a) s = exec (.init m a) s) ∧
  (∀ (m : Variant) (a : Aspect), encode (.reset m a) = encode (.init m a) ^^^ 0x30000000) ∧
  encode (.reset .m128 .a169) = 0x20000003 ∧
  ∀ s : State, s.fault = none → s.configs = referenceConfigs → s.allocs.headD true = true →
    ∃ t, exec (.reset .m128 .a169) s = .next t ∧ t.mode = ⟨.m128, .a169⟩ ∧
      t.target = 13428 ∧ t.out = s.out ++ [0]

/-! ### Tables (spec/40_color_attribute_lut.md, spec/41_scanline_geometry.md) -/

/-- After a successful INIT, PALETTE[k] = (RAW_COLORS[k] & PF_MASK) | PF_BITS and the four bytes of
BORDER_WORD[c] are PALETTE[c] (R140, R163). -/
def Obligations.PaletteAndBorderWordsAreBuilt : Prop :=
  ∀ (m : Variant) (a : Aspect) (s t : State), AfterInit m a s t →
    (∀ k : Fin 16,
      t.palette.get k = (t.cfg.rawColors.get k &&& t.cfg.pfMask) ||| t.cfg.pfBits) ∧
    ∀ (c : Fin 8) (k : Nat), k < 4 →
      lane (t.borderWord.get c) k = t.palette.get ⟨c.val, by omega⟩

/-- R148: every pixel slot of every ALU entry is the ink or the paper colour its nibble bit selects,
at the brightness of the attribute. -/
def Obligations.AluTableRoundTrip : Prop :=
  ∀ (m : Variant) (a : Aspect) (s t : State), AfterInit m a s t →
    ∀ (n : BitVec 4) (at' : Byte) (k : Nat), k < 4 →
      lane (aluAt t.alu n at') k =
        paletteAt t.palette
          (BitVec.ofNat 4
            (8 * (at'.extractLsb' 6 1).toNat +
              (if n.getLsbD (3 - k) = true then (at'.extractLsb' 0 3).toNat
                else (at'.extractLsb' 3 3).toNat)))

/-- The flash bit takes no part in the ALU table (R146, first sentence). -/
def Obligations.AluTableIgnoresFlashBit : Prop :=
  ∀ (m : Variant) (a : Aspect) (s t : State), AfterInit m a s t →
    ∀ (n : BitVec 4) (at' : Byte), aluAt t.alu n at' = aluAt t.alu n (at' &&& 0x7F)

/-- R161: BMP_OFF has SCREEN_LINES entries, entry i the bit permutation of i read as 8 bits. -/
def Obligations.BitmapOffsetsPermuteTheLine : Prop :=
  ∀ (m : Variant) (a : Aspect) (s t : State), AfterInit m a s t →
    t.bmpOff.length = t.cfg.screenLines ∧
    ∀ i < t.cfg.screenLines,
      let v := BitVec.ofNat 8 i
      let o := t.bmpOff.getD i 0
      o = ((v.setWidth 14 &&& 0xC0) <<< 5) ||| ((v.setWidth 14 &&& 0x07) <<< 8) |||
        ((v.setWidth 14 &&& 0x38) <<< 2) ∧
      o.extractLsb' 13 1 = 0 ∧ o.extractLsb' 11 2 = v.extractLsb' 6 2 ∧
      o.extractLsb' 8 3 = v.extractLsb' 0 3 ∧ o.extractLsb' 5 3 = v.extractLsb' 3 3 ∧
      o.extractLsb' 0 5 = 0

/-- R162: ATTR_OFF[i] = (i >> 3)·ROW_STRIDE + ATTR_BASE, exactly, so eight consecutive lines share
one attribute row. -/
def Obligations.AttributeOffsetsShareARow : Prop :=
  ∀ (m : Variant) (a : Aspect) (s t : State), s.configs.admitted = true → AfterInit m a s t →
    0 < t.cfg.screenCells →
    t.attrOff.length = t.cfg.screenLines ∧
    (∀ i < t.cfg.screenLines,
      (t.attrOff.getD i 0).toNat = (i / 8) * t.cfg.rowStride + t.cfg.attrBase) ∧
    ∀ i < t.cfg.screenLines, ∀ j < t.cfg.screenLines, i / 8 = j / 8 →
      t.attrOff.getD i 0 = t.attrOff.getD j 0

/-- R165: under the reference values the bitmap bytes fill 0x0000 to 0x17FF exactly once and the
attribute bytes lie in 0x1800 to 0x1AFF; both satisfy W7. -/
def Obligations.ReferenceOffsetsTileTheBank : Prop :=
  (∀ i < 192, ∀ j < 192, bmpOffset i = bmpOffset j → i = j) ∧
  (∀ i < 192, bmpOffset i % 32 = 0 ∧ bmpOffset i < 0x1800) ∧
  (∀ x < 0x1800, ∃ i < 192, ∃ c < 32, bmpOffset i + c = x ∧
    ∀ i' < 192, ∀ c' < 32, bmpOffset i' + c' = x → i' = i ∧ c' = c) ∧
  ∀ m : Mode, (referenceCfg m).W7 ∧
    ∀ i < 192, ∀ c < 32,
      0x1800 ≤ attrOffset (referenceCfg m) i + c ∧ attrOffset (referenceCfg m) i + c ≤ 0x1AFF

/-! ### The floating-bus sampler (spec/42_floating_bus.md) -/

/-- SAMPLE appends 0xFF, reading no input, for a negative adjusted count, for a line outside the
visible-graphics band, and for a phase of at least FIRST_HALF (R180, R182, R183, R184). -/
def Obligations.SampleIsIdleOutsideTheFetch : Prop :=
  ∀ (s : State) (n : Count), s.Running →
    (adjusted s n < 0 ∨ adjusted s n / s.cfg.cpl < s.cfg.fbLine0 ∨
      (s.cfg.fbLine0 : Int) + s.cfg.screenLines ≤ adjusted s n / s.cfg.cpl ∨
      (s.cfg.firstHalf : Int) ≤ adjusted s n % s.cfg.cpl) →
    exec (.sample n) s = .next { s with out := s.out ++ [0xFF] }

/-- Inside the band and below FIRST_HALF, slots 0 to 3 append the bitmap and attribute bytes of
cells c and c + 1 of graphics line g from bank LATCH, slots 4 to 7 append 0xFF without reading it,
and slots 0 to 3 with LATCH = ⊥ raise UnwrittenInput(LATCH); nothing else changes
(R180, R185, R186, R187). -/
def Obligations.SampleReadsTheFetchedByte : Prop :=
  ∀ (s : State) (n : Count) (line phase g : Nat), s.Running → 0 ≤ adjusted s n →
    line = (adjusted s n).toNat / s.cfg.cpl → phase = (adjusted s n).toNat % s.cfg.cpl →
    line = s.cfg.fbLine0 + g → g < s.cfg.screenLines → phase < s.cfg.firstHalf →
    let c := 2 * (phase / 8)
    (4 ≤ phase % 8 → exec (.sample n) s = .next { s with out := s.out ++ [0xFF] }) ∧
    (phase % 8 < 4 → s.latch = none →
      exec (.sample n) s = .next { s with fault := some (.unwrittenInput .latch) }) ∧
    ∀ b, s.latch = some b →
      (phase % 8 = 0 → exec (.sample n) s = .next
        { s with out := s.out ++ [Memory.read s.vram b (bmpAt s g c)] }) ∧
      (phase % 8 = 1 → exec (.sample n) s = .next
        { s with out := s.out ++ [Memory.read s.vram b (attrAt s g c)] }) ∧
      (phase % 8 = 2 → exec (.sample n) s = .next
        { s with out := s.out ++ [Memory.read s.vram b (bmpAt s g (c + 1))] }) ∧
      (phase % 8 = 3 → exec (.sample n) s = .next
        { s with out := s.out ++ [Memory.read s.vram b (attrAt s g (c + 1))] })

/-- R189: the corner cases of the reference M48 configuration, every count outside the band, and
the rule's example. -/
def Obligations.SampleCornerCases : Prop :=
  ∀ (s : State) (b : Bank), s.Running → s.configs = referenceConfigs → s.mode.variant = .m48 →
    s.TablesOk → s.latch = some b →
    let appends (n : Count) (v : Byte) : Prop :=
      exec (.sample n) s = .next { s with out := s.out ++ [v] }
    appends 14335 0xFF ∧ appends 14336 (Memory.read s.vram b 0x0000) ∧ appends 14463 0xFF ∧
    appends 14464 0xFF ∧ appends 57343 0xFF ∧ appends 57344 0xFF ∧
    (∀ n : Count, n.toNat < 14336 ∨ 57344 ≤ n.toNat → appends n 0xFF) ∧
    ∃ t, runCommands [.poke .bank0 0x0000 0x5A, .setLatch .bank0, .sample 14336] s = .next t ∧
      t.out = s.out ++ [0x5A]

/-- The result of a SAMPLE does not depend on where it falls among ADVANCE, FLUSH, SET_BORDER,
SET_FLASH, SET_OVERLAY and SET_CYCLES, and it changes none of their results (R96, R181, R187). -/
def Obligations.SampleCommutesWithMainCommands : Prop :=
  ∀ (i : Instr) (n : Count) (s t u : State), SampleIndependent i →
    exec i s = .next t → t.fault = none → exec (.sample n) s = .next u → u.fault = none →
    exec (.sample n) t = .next { t with out := u.out } ∧
    exec i u = .next { t with out := u.out }

/-- SAMPLEs of the interrupt context. One handed over between two commands is exec of SAMPLE (R7,
R96, R309). One marked as landing inside the INIT or RESET that follows it, with only SAMPLEs so
marked between them, appends one byte, of which nothing is said, and changes nothing else (R341);
that it does so, and raises no NotReady, also inside the first INIT is the model's reading (log
entry 4). One so marked before anything else (another command, an illegal word, an overlay store, a
plain SAMPLE, the end of the list) is a SAMPLE between two commands, the model's choice (log entry
5). -/
def Obligations.InterruptSamplesLandAsTheSpecSays : Prop :=
  ∀ (s : State) (n : Count) (rest : List HostInput), s.configs.admitted = true →
    (s.inputs = .interruptSample n :: rest →
      step s = exec (.sample n) { s with inputs := rest }) ∧
    (s.inputs = .preemptingSample n :: rest → s.fault = none → RebuildFollows rest →
      ∃ v : Byte,
        step s = .next { s with inputs := rest, out := s.out ++ [v], draws := s.draws + 1 }) ∧
    (s.inputs = .preemptingSample n :: rest → ¬ RebuildFollows rest →
      step s = exec (.sample n) { s with inputs := rest })

/-! ### The raster machine (spec/43_raster.md) -/

/-- R203: ADVANCE in BLANK starts a frame when CYC < FIRST_THRESH after step 1, and otherwise only
CYC changes; no pixel is written and no crossing happens. -/
def Obligations.AdvanceInBlankStartsAFrame : Prop :=
  ∀ (s : State) (n : Count), s.Running → s.phase = .blank → NoOverflow s n →
    (cycAfter s n < s.cfg.firstThresh → exec (.advance n) s = .next
      { s with
        cyc := BitVec.ofNat 32 (cycAfter s n)
        line := 0
        col := 0
        target := BitVec.ofNat 32 s.cfg.firstThresh
        phase := .topWait }) ∧
    (s.cfg.firstThresh ≤ cycAfter s n → exec (.advance n) s = .next
      { s with cyc := BitVec.ofNat 32 (cycAfter s n) })

/-- R204: ADVANCE in a wait sub-state before the boundary ends with no other change than CYC. -/
def Obligations.AdvanceBeforeTheBoundaryOnlyCounts : Prop :=
  ∀ (s : State) (n : Count), s.Running → isWait s.phase = true → NoOverflow s n →
    cycAfter s n < s.target.toNat →
    exec (.advance n) s = .next { s with cyc := BitVec.ofNat 32 (cycAfter s n) }

/-- A boundary crossing completes without a fault under `CanDraw`: TARGET moves on by CPL,
OSD_ACTIVE is loaded, and the overshoot o draws o div 4 units in the same command, at most the row
(R205, R206, R207, R212). -/
def Obligations.CrossingDrawsTheOvershoot : Prop :=
  ∀ (s : State) (n : Count), CanDraw s → isWait s.phase = true → NoOverflow s n →
    s.target.toNat ≤ cycAfter s n →
    let o := cycAfter s n - s.target.toNat
    ∃ t, exec (.advance n) s = .next t ∧ t.fault = none ∧ t.cyc.toNat = cycAfter s n ∧
      t.target.toNat = s.target.toNat + s.cfg.cpl ∧ t.carry.toNat = o % 4 ∧
      s.osdVisible = some t.osdActive ∧
      (o / 4 < s.cfg.units →
        t.phase = drawOf s.phase ∧ t.line = s.line ∧ t.col = o / 4) ∧
      (s.cfg.units ≤ o / 4 → (t.phase, t.line) = afterRow s.cfg s.line ∧ t.col = 0)

/-- ADVANCE in a draw sub-state completes without a fault under `CanDraw`: the budget n + CARRY
draws its whole units, at most to the end of the row, and leaves its remainder in CARRY; the units
beyond the row's end are dropped (R206, R207). -/
def Obligations.DrawBodySpendsTheBudget : Prop :=
  ∀ (s : State) (n : Count), CanDraw s → isDraw s.phase = true → NoOverflow s n →
    let budget := n.toNat + s.carry.toNat
    ∃ t, exec (.advance n) s = .next t ∧ t.fault = none ∧ t.cyc.toNat = cycAfter s n ∧
      t.target = s.target ∧ t.carry.toNat = budget % 4 ∧ t.osdActive = s.osdActive ∧
      (s.col + budget / 4 < s.cfg.units →
        t.phase = s.phase ∧ t.line = s.line ∧ t.col = s.col + budget / 4) ∧
      (s.cfg.units ≤ s.col + budget / 4 →
        (t.phase, t.line) = afterRow s.cfg s.line ∧ t.col = 0)

/-- A border unit paints both its words with BORDER_WORD[BORDER] and sets its row's BCACHE entry;
every other frame-buffer word and the rest of the state are unchanged (R85, R208, R213, R215). -/
def Obligations.BorderUnitPaintsTwoWords : Prop :=
  ∀ (s : State) (col : Colour), s.fault = none → s.border = some col →
    ¬ Skipped s.cfg s.osdActive s.phase s.line s.col → ¬ ShowsCell s.cfg s.phase s.col →
    s.line < s.cfg.vres → s.cfg.rwo + 2 * s.col + 1 < s.cfg.wpr →
    let t := emitUnit s
    let j := s.cfg.rwo + 2 * s.col
    t = { s with fb := t.fb, bcache := s.bcache.set s.line (col.setWidth 8) } ∧
    FrameBuffer.read t.fb s.line j = borderWordAt s.borderWord col ∧
    FrameBuffer.read t.fb s.line (j + 1) = borderWordAt s.borderWord col ∧
    ∀ r j', ¬ (r = s.line ∧ (j' = j ∨ j' = j + 1)) →
      FrameBuffer.read t.fb r j' = FrameBuffer.read s.fb r j'

/-- A screen unit writes ALU[p[7:4]][a] and ALU[p[3:0]][a], p inverted when a[7] and FLASH are 1,
with FLASH not read when a[7] is 0; every other frame-buffer word and the rest of the state are
unchanged (R85, R209, R210, R215). -/
def Obligations.ScreenUnitPaintsItsCell : Prop :=
  ∀ (s : State) (b : Bank) (f : Bool), s.fault = none → s.latch = some b →
    ¬ Skipped s.cfg s.osdActive s.phase s.line s.col → ShowsCell s.cfg s.phase s.col →
    s.line < s.cfg.vres → s.cfg.rwo + 2 * s.col + 1 < s.cfg.wpr →
    let a := Memory.read s.vram b (attrAt s (s.line - s.cfg.tb) (s.col - s.cfg.lb))
    let p := Memory.read s.vram b (bmpAt s (s.line - s.cfg.tb) (s.col - s.cfg.lb))
    (a.getLsbD 7 = true → s.flash = some f) →
    let t := emitUnit s
    let j := s.cfg.rwo + 2 * s.col
    let q := shownByte a p f
    t = { s with fb := t.fb } ∧
    FrameBuffer.read t.fb s.line j = aluAt s.alu (q.extractLsb' 4 4) a ∧
    FrameBuffer.read t.fb s.line (j + 1) = aluAt s.alu (q.extractLsb' 0 4) a ∧
    ∀ r j', ¬ (r = s.line ∧ (j' = j ∨ j' = j + 1)) →
      FrameBuffer.read t.fb r j' = FrameBuffer.read s.fb r j'

/-- A skipped unit reads nothing and writes nothing, but counts as emitted: COL still advances
(R211). -/
def Obligations.SkippedUnitOnlyCounts : Prop :=
  ∀ s : State, s.fault = none → Skipped s.cfg s.osdActive s.phase s.line s.col →
    emitUnit s = s ∧
    (s.col + 1 ≠ s.cfg.units → emitUnits 1 s = { s with col := s.col + 1 })

/-- The frame of ADVANCE: only the state R202 lists is written; of FB only the words of the units
emitted, in row LINE; of BCACHE only the entry of row LINE (R85, R202, R206, R213). -/
def Obligations.AdvanceWritesOnlyItsUnits : Prop :=
  ∀ (s t : State) (n : Count), s.configs.Drawable → s.PositionOk →
    exec (.advance n) s = .next t →
    t = { s with
      phase := t.phase, line := t.line, col := t.col, target := t.target, carry := t.carry,
      cyc := t.cyc, osdActive := t.osdActive, bcache := t.bcache, fb := t.fb, fault := t.fault } ∧
    t.bcache.length = s.bcache.length ∧
    (∀ r, r ≠ s.line → t.bcache[r]? = s.bcache[r]?) ∧
    ∀ r j, ¬ (r = s.line ∧ s.cfg.rwo + 2 * s.col ≤ j ∧ j < s.cfg.rwo + 2 * unitsEnd s n) →
      FrameBuffer.read t.fb r j = FrameBuffer.read s.fb r j

/-- What ADVANCE paints under `CanDraw`: each unit from COL up to the last one its budget and the
row allow holds the two words R208 to R211 give it under the inputs, tables and video memory of the
moment, and a skipped unit keeps what was there (R206, R208 to R212, R214, R221). -/
def Obligations.AdvancePaintsEachUnitDue : Prop :=
  ∀ (s : State) (n : Count) (col : Colour) (b : Bank) (f v : Bool), CanDraw s → NoOverflow s n →
    s.border = some col → s.latch = some b → s.flash = some f → s.osdVisible = some v →
    (isWait s.phase = true → s.target.toNat ≤ cycAfter s n) → s.phase ≠ .blank →
    let osd := if isWait s.phase = true then v else s.osdActive
    ∃ t, exec (.advance n) s = .next t ∧ t.fault = none ∧
      ∀ u, s.col ≤ u → u < unitsEnd s n →
        let j := s.cfg.rwo + 2 * u
        match unitWords s osd (drawOf s.phase) col b f s.line u with
        | none =>
          FrameBuffer.read t.fb s.line j = FrameBuffer.read s.fb s.line j ∧
          FrameBuffer.read t.fb s.line (j + 1) = FrameBuffer.read s.fb s.line (j + 1)
        | some (w0, w1) =>
          FrameBuffer.read t.fb s.line j = w0 ∧ FrameBuffer.read t.fb s.line (j + 1) = w1

/-- The only phase transitions of one ADVANCE: a frame start, a crossing, a completed row, or a
crossing that completes its row; and no command but ADVANCE, FLUSH, INIT and RESET changes PHASE
(R32, R200, R216). -/
def Obligations.PhaseMovesOnlyAsListed : Prop :=
  (∀ (s t : State) (n : Count), exec (.advance n) s = .next t →
    t.phase = s.phase ∨ (s.phase = .blank ∧ t.phase = .topWait) ∨
    (isWait s.phase = true ∧
      (t.phase = drawOf s.phase ∨ t.phase ∈ rowSuccessors (drawOf s.phase))) ∨
    (isDraw s.phase = true ∧ t.phase ∈ rowSuccessors s.phase)) ∧
  ∀ (i : Instr) (s t : State), exec i s = .next t →
    (∀ n, i ≠ .advance n) → i ≠ .flush → ¬ IsModeCommand i → t.phase = s.phase

/-- OSD_ACTIVE holds for the whole row: outside INIT, RESET and FLUSH only an ADVANCE in a wait
sub-state changes it, to the value of OSD_VISIBLE, and every crossing loads it (R38, R212, R265). -/
def Obligations.VariantIsLatchedAtCrossings : Prop :=
  (∀ (i : Instr) (s t : State), exec i s = .next t → i ≠ .flush → ¬ IsModeCommand i →
    t.osdActive ≠ s.osdActive →
    isWait s.phase = true ∧ s.osdVisible = some t.osdActive ∧ ∃ n, i = .advance n) ∧
  ∀ (s t : State) (n : Count) (v : Bool), s.Running → isWait s.phase = true → NoOverflow s n →
    s.target.toNat ≤ cycAfter s n → s.osdVisible = some v → exec (.advance n) s = .next t →
    t.osdActive = v

/-- No cycle is double-counted or dropped: after a list of ADVANCE commands that raises no fault,
CYC is its value before plus the sum of their operands (R221 part 1). -/
def Obligations.CyclesAreConserved : Prop :=
  ∀ (ns : List Count) (s t : State), runCommands (ns.map .advance) s = .next t →
    t.fault = none → t.cyc.toNat = s.cyc.toNat + (ns.map BitVec.toNat).sum

/-- With the host on time, PHASE, LINE and COL are functions of CYC: from TOP_WAIT before
FIRST_THRESH, after any list of ADVANCE commands with operands of at most CPL − 4·UNITS
(R221 part 3, R226, R343). -/
def Obligations.OnTimePositionIsAFunctionOfCyc : Prop :=
  ∀ (ns : List Count) (s : State), CanDraw s → s.phase = .topWait → s.line = 0 →
    s.cyc.toNat < s.cfg.firstThresh →
    (∀ n ∈ ns, n.toNat + 4 * s.cfg.units ≤ s.cfg.cpl) →
    s.cyc.toNat + (ns.map BitVec.toNat).sum < 2 ^ 32 →
    ∃ t, runCommands (ns.map .advance) s = .next t ∧ t.fault = none ∧
      t.cyc.toNat = s.cyc.toNat + (ns.map BitVec.toNat).sum ∧
      (t.phase, t.line, t.col) = onTimePosition s.cfg t.cyc.toNat

/-- R222: ADVANCE 0 starts a frame, performs a pending crossing, or does nothing. -/
def Obligations.AdvanceZeroCatchesUp : Prop :=
  ∀ s : State, CanDraw s →
    (s.phase = .blank → s.cyc.toNat < s.cfg.firstThresh → exec (.advance 0) s = .next
      { s with
        line := 0
        col := 0
        target := BitVec.ofNat 32 s.cfg.firstThresh
        phase := .topWait }) ∧
    (isWait s.phase = true → s.target.toNat ≤ s.cyc.toNat →
      let k := (s.cyc.toNat - s.target.toNat) / 4
      ∃ t, exec (.advance 0) s = .next t ∧ t.fault = none ∧ t.cyc = s.cyc ∧
        t.target.toNat = s.target.toNat + s.cfg.cpl ∧
        (k < s.cfg.units → t.phase = drawOf s.phase ∧ t.line = s.line ∧ t.col = k) ∧
        (s.cfg.units ≤ k → (t.phase, t.line) = afterRow s.cfg s.line ∧ t.col = 0)) ∧
    (isDraw s.phase = true → exec (.advance 0) s = .next s) ∧
    (s.phase = .blank → s.cfg.firstThresh ≤ s.cyc.toNat → exec (.advance 0) s = .next s) ∧
    (isWait s.phase = true → s.cyc.toNat < s.target.toNat → exec (.advance 0) s = .next s)

/-! ### FLUSH -/

/-- FLUSH is `while CYC < CPF: ADVANCE(CPL)`: one ADVANCE of CPL and then FLUSH again, a fault of
the inner ADVANCE ending it (R217). The premise on CPL is that it is an operand of ADVANCE. -/
def Obligations.FlushRepeatsAdvance : Prop :=
  ∀ s t : State, s.Running → s.configs.admitted = true → s.cyc.toNat < s.cfg.cpf →
    s.cfg.cpl < 2 ^ 24 → exec (.advance (BitVec.ofNat 24 s.cfg.cpl)) s = .next t →
    exec .flush s = exec .flush t

/-- R218: FLUSH with CYC ≥ CPF changes nothing and writes nothing; so does a second FLUSH. -/
def Obligations.FlushIsIdempotent : Prop :=
  (∀ s : State, s.Running → s.cfg.cpf ≤ s.cyc.toNat → exec .flush s = .next s) ∧
  ∀ s t : State, s.configs.admitted = true → exec .flush s = .next t → exec .flush t = .next t

/-- FLUSH completes under `CanDraw` when no pass can overflow CYC, with CYC at or beyond CPF, and
less than CPL beyond it unless it started so (R217, R225). -/
def Obligations.FlushReachesTheFrameEnd : Prop :=
  ∀ s : State, CanDraw s → s.cfg.cpf + s.cfg.cpl ≤ 2 ^ 32 →
    ∃ t, exec .flush s = .next t ∧ t.fault = none ∧ s.cfg.cpf ≤ t.cyc.toNat ∧
      (s.cyc.toNat < s.cfg.cpf → t.cyc.toNat < s.cfg.cpf + s.cfg.cpl)

/-- Under the conditions (a) to (c) of R219 FLUSH ends in BLANK with LINE 0 and TARGET the boundary
after the last row, and has emitted every unit not yet emitted of every row from LINE to VRES − 1:
each holds the two words R208 to R211 give it, the row in progress under its own draw variant and
every later row under OSD_VISIBLE. Skipped units and every other word keep what was there, where a
row in progress lies at or after FIRST_THRESH, so that no second frame starts below CPF. -/
def Obligations.FlushFinishesTheFrame : Prop :=
  ∀ (s t : State) (col : Colour) (b : Bank) (f v : Bool), CanDraw s → exec .flush s = .next t →
    t.fault = none →
    s.border = some col → s.latch = some b → s.flash = some f → s.osdVisible = some v →
    (isWait s.phase = true ∧ s.cyc.toNat < s.target.toNat + 4 * s.cfg.units ∨
      isDraw s.phase = true ∧
        s.cyc.toNat + s.cfg.cpl < s.target.toNat + 4 * s.cfg.units ∨
      s.phase = .blank ∧ s.cyc.toNat + s.cfg.cpl < s.cfg.firstThresh) →
    let inProgress (r : Nat) : Prop := isDraw s.phase = true ∧ r = s.line
    let oneFrame : Prop := isDraw s.phase = true → s.cfg.firstThresh ≤ s.cyc.toNat
    (t.phase = .blank ∧ t.line = 0 ∧ t.target.toNat = s.cfg.rowStart s.cfg.vres) ∧
    (∀ r u, s.line ≤ r → r < s.cfg.vres → u < s.cfg.units → (r = s.line → s.col ≤ u) →
      ∀ osd, (inProgress r → osd = s.osdActive) → (¬ inProgress r → osd = v) →
        let words := unitWords s osd (drawPhaseOf s.cfg r) col b f r u
        (words.isSome = true ∨ oneFrame) → UnitHolds s.cfg s.fb t.fb r u words) ∧
    (oneFrame → ∀ r j,
      (r < s.line ∨ s.cfg.vres ≤ r ∨ (r = s.line ∧ j < s.cfg.rwo + 2 * s.col) ∨
        j < s.cfg.rwo ∨ s.cfg.rwo + 2 * s.cfg.units ≤ j) →
      FrameBuffer.read t.fb r j = FrameBuffer.read s.fb r j)

/-! ### Host commands (spec/44_host_commands.md) -/

/-- The input setters: each writes its own input and nothing else, in every status, and the next
read of that input gives the value written (R264, R265, R266, R267). -/
def Obligations.SettersWriteTheirInput : Prop :=
  ∀ s : State, s.fault = none →
    (∀ c, exec (.setBorder c) s = .next { s with border := some c } ∧
      encode (.setBorder c) = 0x60000000 ||| c.setWidth 32) ∧
    (∀ v, exec (.setOverlay v) s = .next { s with osdVisible := some v } ∧
      encode (.setOverlay v) = 0x70000000 ||| (BitVec.ofBool v).setWidth 32) ∧
    (∀ v, exec (.setFlash v) s = .next { s with flash := some v } ∧
      encode (.setFlash v) = 0x80000000 ||| (BitVec.ofBool v).setWidth 32) ∧
    exec (.setLatch .bank0) s = .next { s with latch := some .bank0 } ∧
    exec (.setLatch .bank1) s = .next { s with latch := some .bank1 } ∧
    encode (.setLatch .bank0) = 0x90000000 ∧ encode (.setLatch .bank1) = 0x90000001

/-- R268: SET_CYCLES sets CYC to the zero-extended operand in every status, and nothing else: the
raster position is not changed. -/
def Obligations.SetCyclesWritesCycOnly : Prop :=
  (∀ (s : State) (n : Count), s.fault = none → ∃ t, exec (.setCycles n) s = .next t ∧
    t = { s with cyc := t.cyc } ∧ t.cyc.toNat = n.toNat) ∧
  (∀ n : Count, encode (.setCycles n) = 0xA0000000 ||| n.setWidth 32) ∧
  encode (.setCycles 8943) = 0xA00022EF

/-- R269: FRAME_WRAP raises NotReady, or WrapUnderflow when CYC < CPF, or subtracts CPF from CYC,
and writes nothing else; the rule's example. -/
def Obligations.FrameWrapSubtractsCpf : Prop :=
  (∀ s : State, s.fault = none →
    (s.vstat ≠ .ready → exec .frameWrap s = .next { s with fault := some .notReady }) ∧
    (s.vstat = .ready → s.cyc.toNat < s.cfg.cpf →
      exec .frameWrap s = .next { s with fault := some .wrapUnderflow }) ∧
    (s.vstat = .ready → s.cfg.cpf ≤ s.cyc.toNat → ∃ t, exec .frameWrap s = .next t ∧
      t = { s with cyc := t.cyc } ∧ t.cyc.toNat + s.cfg.cpf = s.cyc.toNat)) ∧
  encode .frameWrap = 0xB0000000 ∧
  ∀ s : State, s.Running → s.configs = referenceConfigs → s.mode.variant = .m48 →
    s.cyc = 69889 → exec .frameWrap s = .next { s with cyc := 1 }

/-- R270: POKE writes one byte of one bank, in every status; every other byte and the rest of the
state are unchanged. -/
def Obligations.PokeWritesOneByte : Prop :=
  (∀ (s : State) (b : Bank) (o : Offset) (d : Byte), s.fault = none →
    ∃ t, exec (.poke b o d) s = .next t ∧ t = { s with vram := t.vram } ∧
      Memory.read t.vram b o = d ∧
      ∀ b' o', ¬ (b' = b ∧ o' = o) → Memory.read t.vram b' o' = Memory.read s.vram b' o') ∧
  (∀ (o : Offset) (d : Byte), encode (.poke .bank0 o d) =
    0xC0000000 ||| (o.setWidth 32 <<< 8) ||| d.setWidth 32) ∧
  (∀ (o : Offset) (d : Byte), encode (.poke .bank1 o d) =
    0xC0400000 ||| (o.setWidth 32 <<< 8) ||| d.setWidth 32) ∧
  encode (.poke .bank0 0x1800 0x38) = 0xC0180038

/-! ### The frame buffer and the host's side (spec/20_memory.md) -/

/-- R84: FBWrite writes one word when r < VRES and j < WPR, and otherwise raises BoundsViolation and
writes nothing. -/
def Obligations.FbWriteChecksItsBounds : Prop :=
  ∀ (s : State) (r j : Nat) (w : Word),
    (r < s.cfg.vres ∧ j < s.cfg.wpr →
      let t := fbWrite r j w s
      t = { s with fb := t.fb } ∧ FrameBuffer.read t.fb r j = w ∧
      ∀ r' j', ¬ (r' = r ∧ j' = j) → FrameBuffer.read t.fb r' j' = FrameBuffer.read s.fb r' j') ∧
    (¬ (r < s.cfg.vres ∧ j < s.cfg.wpr) →
      fbWrite r j w s = { s with fault := some .boundsViolation })

/-- R88 (and R87): word j of a row occupies bytes 4j to 4j + 3 and pixel k of the word is byte
4j + k of the row, little-endian, and row pixel 4j + k. -/
def Obligations.RowBytesAreLittleEndian : Prop :=
  ∀ (fb : FrameBuffer) (r j k : Nat), k < 4 →
    FrameBuffer.byte fb r (4 * j + k) = lane (FrameBuffer.read fb r j) k ∧
    FrameBuffer.pixel fb r (4 * j + k) = lane (FrameBuffer.read fb r j) k

/-- The overlay's stores, between two commands: one word of the active mode's buffer, and nothing
else of the state (R51, R99); a word that does not exist stops the machine (log entry 8). -/
def Obligations.OverlayStoresOneWord : Prop :=
  ∀ (s : State) (r j : Nat) (w : Word) (rest : List HostInput), s.configs.admitted = true →
    s.fault = none → s.inputs = .overlayStore r j w :: rest →
    (r < s.cfg.vres ∧ j < s.cfg.wpr → ∃ t, step s = .next t ∧
      t = { s with inputs := rest, fb := t.fb } ∧ FrameBuffer.read t.fb r j = w ∧
      ∀ r' j', ¬ (r' = r ∧ j' = j) → FrameBuffer.read t.fb r' j' = FrameBuffer.read s.fb r' j') ∧
    (¬ (r < s.cfg.vres ∧ j < s.cfg.wpr) → step s = .fault .noSuchFrameBufferWord)

/-- The words of a row outside the units, and rows that do not exist, are written by no command and
keep the host's contents, from a state that meets the position invariant (R85). -/
def Obligations.OnlyUnitWordsAreWritten : Prop :=
  ∀ (i : Instr) (s t : State), s.configs.Drawable → s.PositionOk → exec i s = .next t →
    ∀ r j, ¬ (r < s.cfg.vres ∧ s.cfg.rwo ≤ j ∧ j < s.cfg.rwo + 2 * s.cfg.units) →
      FrameBuffer.read t.fb r j = FrameBuffer.read s.fb r j

/-- The block never reads the frame buffer, and BCACHE never suppresses or changes a write (R43, R51,
R99, R213). Two states that differ only in FB and BCACHE are taken by every command to states that
differ only there; each frame-buffer word is then either written alike in both or left as it was in
both; with FB equal and BCACHE different the resulting FB is equal, and with BCACHE equal and FB
different the resulting BCACHE is. -/
def Obligations.FrameBufferAndCacheAreNeverRead : Prop :=
  ∀ (i : Instr) (s t : State) (fb : FrameBuffer) (bc : List Byte), exec i s = .next t →
    ∃ fb' bc',
      exec i { s with fb := fb, bcache := bc } = .next { t with fb := fb', bcache := bc' } ∧
      (fb = s.fb → fb' = t.fb) ∧ (bc = s.bcache → bc' = t.bcache) ∧
      ∀ r j, FrameBuffer.read fb' r j = FrameBuffer.read t.fb r j ∨
        (FrameBuffer.read fb' r j = FrameBuffer.read fb r j ∧
          FrameBuffer.read t.fb r j = FrameBuffer.read s.fb r j)

/-! ### The whole machine (spec/10_state.md) -/

/-- The frame of every command at once: each element of the state is written only by the commands
the spec lists for it (R32 to R52, R55, R81, R98, R147). -/
def Obligations.EachElementHasItsWriters : Prop :=
  ∀ (i : Instr) (s t : State), exec i s = .next t →
    (¬ IsModeCommand i → t.mode = s.mode ∧ t.vstat = s.vstat ∧ t.palette = s.palette ∧
      t.alu = s.alu ∧ t.bmpOff = s.bmpOff ∧ t.attrOff = s.attrOff ∧
      t.borderWord = s.borderWord ∧ t.allocs = s.allocs ∧ t.draws = s.draws) ∧
    (¬ IsModeCommand i → (∀ n, i ≠ .advance n) → i ≠ .flush →
      t.phase = s.phase ∧ t.line = s.line ∧ t.col = s.col ∧ t.target = s.target ∧
      t.carry = s.carry ∧ t.osdActive = s.osdActive ∧ t.bcache = s.bcache) ∧
    (¬ IsModeCommand i → (∀ n, i ≠ .advance n) → i ≠ .flush → (∀ n, i ≠ .setCycles n) →
      i ≠ .frameWrap → t.cyc = s.cyc) ∧
    ((∀ n, i ≠ .advance n) → i ≠ .flush →
      ∀ r j, FrameBuffer.read t.fb r j = FrameBuffer.read s.fb r j) ∧
    ((∀ c, i ≠ .setBorder c) → t.border = s.border) ∧
    ((∀ v, i ≠ .setFlash v) → t.flash = s.flash) ∧
    ((∀ v, i ≠ .setOverlay v) → t.osdVisible = s.osdVisible) ∧
    ((∀ v, i ≠ .setLatch v) → t.latch = s.latch) ∧
    ((∀ b o d, i ≠ .poke b o d) →
      ∀ b o, Memory.read t.vram b o = Memory.read s.vram b o) ∧
    (¬ IsModeCommand i → (∀ n, i ≠ .sample n) → t.out = s.out) ∧
    t.inputs = s.inputs ∧ t.configs = s.configs

/-- R54: every step keeps the position invariant, from every state that meets it, for drawable
configurations (log entry 9). -/
def Obligations.EveryStepKeepsThePosition : Prop :=
  ∀ s t : State, s.configs.Drawable → s.PositionOk → step s = .next t →
    t.PositionOk ∧ t.configs.Drawable

/-- Every step keeps the derived tables what INIT or RESET built for MODE, BCACHE one entry per row,
each a colour or the sentinel (R43, R98, R147). -/
def Obligations.EveryStepKeepsTheTables : Prop :=
  ∀ s t : State, s.TablesOk → step s = .next t → t.TablesOk

/-- Every step keeps video memory and the frame buffer in the model's own canonical form: sorted,
no entry equal to what an unlisted one reads as (log entry 7), video memory inside the two banks of
R81. -/
def Obligations.EveryStepKeepsStorageCanonical : Prop :=
  ∀ s t : State, s.StorageOk → step s = .next t → t.StorageOk

/-- The invariants hold at the model's power-on state. Its configurations, admitted and drawable,
are the model's (log entry 2), and so is its empty storage (log entry 7); R54 and the tables ask
nothing there, since VSTAT is UNINIT (R330). -/
def Obligations.PowerOnMeetsTheInvariants : Prop :=
  State.reset.PositionOk ∧ State.reset.TablesOk ∧ State.reset.StorageOk ∧
    State.reset.configs.admitted = true ∧ State.reset.configs.Drawable

/-- R225: BoundsViolation is never raised from a state that meets the position invariant, under
admitted (a step's own check) and drawable configurations. -/
def Obligations.BoundsAreNeverViolated : Prop :=
  ∀ s t : State, s.configs.Drawable → s.PositionOk → s.fault ≠ some .boundsViolation →
    step s = .next t → t.fault ≠ some .boundsViolation

/-! ### Assembly (spec/30_encoding.md) -/

/-- R120: the pseudo-commands and their exact expansions. -/
def Obligations.PseudoCommandsExpand : Prop :=
  (∀ (cpl : Nat) (m a : AsmOperand), m.IsMachine → a.IsAspect →
    assembleLine cpl ⟨.setup, [m, a]⟩ =
      assemble cpl
        [ ⟨.setBorder, [.number 0]⟩, ⟨.setFlash, [.number 0]⟩, ⟨.setOverlay, [.number 0]⟩,
          ⟨.setLatch, [.number 0]⟩, ⟨.init, [m, a]⟩ ]) ∧
  (∀ cpl : Nat, assembleLine cpl ⟨.endframe, []⟩ =
    assemble cpl [⟨.flush, []⟩, ⟨.frameWrap, []⟩]) ∧
  ∀ cpl : Nat, assembleLine cpl ⟨.line, []⟩ = assembleLine cpl ⟨.advance, [.number cpl]⟩

/-- An operand out of its range is an assembly error that refuses the whole list (R119, R312), and
every line with its operands in range assembles. A line that assembles has operands of its mnemonic's
form; for each command mnemonic of R119 those that assemble are exactly the ones in the rule's ranges,
and they give that command. The premise on CPL is that LINE's
ADVANCE CPL has an operand (log entry 16). -/
def Obligations.OutOfRangeOperandsAreRefused : Prop :=
  (∀ (cpl : Nat) (ls : List AsmLine), (∃ l ∈ ls, l.wf = false) → assemble cpl ls = none) ∧
  (∀ (cpl : Nat) (l : AsmLine), cpl < 2 ^ 24 → l.wf = true → (assembleLine cpl l).isSome = true) ∧
  (∀ (cpl : Nat) (l : AsmLine), (assembleLine cpl l).isSome = true →
    HasForm l.operands l.mnemonic) ∧
  (∀ (cpl : Nat) (m a : AsmOperand),
    let variant : Variant := if m = .number 128 ∨ m = .number 1 then .m128 else .m48
    let aspect : Aspect := if a = .ratio 16 9 ∨ a = .number 1 then .a169 else .a43
    assembleLine cpl ⟨.init, [m, a]⟩ =
      (if m.IsMachine ∧ a.IsAspect then some [.init variant aspect] else none) ∧
    assembleLine cpl ⟨.reset, [m, a]⟩ =
      (if m.IsMachine ∧ a.IsAspect then some [.reset variant aspect] else none)) ∧
  (∀ cpl n : Nat,
    assembleLine cpl ⟨.advance, [.number n]⟩ =
      (if n < 2 ^ 24 then some [.advance (BitVec.ofNat 24 n)] else none) ∧
    assembleLine cpl ⟨.sample, [.number n]⟩ =
      (if n < 2 ^ 24 then some [.sample (BitVec.ofNat 24 n)] else none) ∧
    assembleLine cpl ⟨.setCycles, [.number n]⟩ =
      (if n < 2 ^ 24 then some [.setCycles (BitVec.ofNat 24 n)] else none)) ∧
  (∀ cpl c : Nat, assembleLine cpl ⟨.setBorder, [.number c]⟩ =
    if c ≤ 7 then some [.setBorder (BitVec.ofNat 3 c)] else none) ∧
  (∀ cpl v : Nat,
    assembleLine cpl ⟨.setOverlay, [.number v]⟩ =
      (if v ≤ 1 then some [.setOverlay (v == 1)] else none) ∧
    assembleLine cpl ⟨.setFlash, [.number v]⟩ =
      (if v ≤ 1 then some [.setFlash (v == 1)] else none) ∧
    assembleLine cpl ⟨.setLatch, [.number v]⟩ =
      (if v ≤ 1 then some [.setLatch (if v = 1 then .bank1 else .bank0)] else none)) ∧
  (∀ cpl b o d : Nat, assembleLine cpl ⟨.poke, [.number b, .number o, .number d]⟩ =
    if b ≤ 1 ∧ o < 16384 ∧ d ≤ 255 then
      some [.poke (if b = 1 then .bank1 else .bank0) (BitVec.ofNat 14 o) (BitVec.ofNat 8 d)]
    else none) ∧
  ∀ cpl : Nat, assembleLine cpl ⟨.flush, []⟩ = some [.flush] ∧
    assembleLine cpl ⟨.frameWrap, []⟩ = some [.frameWrap]
end

