-- ==== Sys2Proof/Laws/Decode.lean ====
section
/-! SUPPORT. The fields of a word built from placed fields (spec/30_encoding.md R112). -/

namespace Sys2Proof

theorem getLsbD_placed {w : Nat} (lo : Nat) (x : BitVec w) (i : Nat) :
    (placed lo x).getLsbD i = (decide (lo ≤ i) && decide (i < 32) && x.getLsbD (i - lo)) := by
  simp only [placed, BitVec.getLsbD_shiftLeft, BitVec.getLsbD_setWidth]
  by_cases h : i < 32
  · by_cases h' : lo ≤ i
    · simp [h, h', show ¬ i < lo by omega, show i - lo < 32 by omega]
    · simp [h', show i < lo by omega]
  · simp [h]

/-- The opcode field of a word whose other fields lie below bit 28. -/
theorem opField_or_placed (op : BitVec 4) {w : Nat} (lo : Nat) (x : BitVec w) (v : Word)
    (h : lo + w ≤ 28) (hv : opField v = op) : opField (v ||| placed lo x) = op := by
  apply BitVec.eq_of_getLsbD_eq
  intro i hi
  have := congrArg (fun b => b.getLsbD i) hv
  simp only [opField, BitVec.getLsbD_extractLsb', BitVec.getLsbD_or, getLsbD_placed, hi,
    decide_true, Bool.true_and] at this ⊢
  rw [this, BitVec.getLsbD_of_ge x (28 + i - lo) (by omega)]
  simp

theorem opField_placed (op : BitVec 4) : opField (placed 28 op) = op := by
  apply BitVec.eq_of_getLsbD_eq
  intro i hi
  simp only [opField, BitVec.getLsbD_extractLsb', getLsbD_placed]
  simp [hi, show 28 + i < 32 by omega]

theorem opField_formatFM (op : BitVec 4) (m : Variant) (a : Aspect) :
    opField (formatFM op m a) = op :=
  opField_or_placed op 0 _ _ (by omega) (opField_or_placed op 1 _ _ (by omega) (opField_placed op))

theorem opField_formatFN (op : BitVec 4) (n : Count) : opField (formatFN op n) = op :=
  opField_or_placed op 0 n _ (by omega) (opField_placed op)

theorem opField_formatF0 (op : BitVec 4) : opField (formatF0 op) = op := opField_placed op

theorem opField_formatFC (op : BitVec 4) (c : Colour) : opField (formatFC op c) = op :=
  opField_or_placed op 0 c _ (by omega) (opField_placed op)

theorem opField_formatF1 (op : BitVec 4) (v : BitVec 1) : opField (formatF1 op v) = op :=
  opField_or_placed op 0 v _ (by omega) (opField_placed op)

theorem opField_formatFP (op : BitVec 4) (b : Bank) (o : Offset) (d : Byte) :
    opField (formatFP op b o d) = op :=
  opField_or_placed op 0 d _ (by omega) <| opField_or_placed op 8 o _ (by omega) <|
    opField_or_placed op 22 _ _ (by omega) (opField_placed op)

/-- The count field of format FN (R112). -/
theorem count_formatFN (op : BitVec 4) (n : Count) : (formatFN op n).extractLsb' 0 24 = n := by
  apply BitVec.eq_of_getLsbD_eq
  intro i hi
  simp only [formatFN, BitVec.getLsbD_extractLsb', BitVec.getLsbD_or, getLsbD_placed]
  simp [hi, show ¬ 28 ≤ i by omega, show i < 32 by omega]

/-- The colour field of format FC (R112). -/
theorem colour_formatFC (op : BitVec 4) (c : Colour) : (formatFC op c).extractLsb' 0 3 = c := by
  apply BitVec.eq_of_getLsbD_eq
  intro i hi
  simp only [formatFC, BitVec.getLsbD_extractLsb', BitVec.getLsbD_or, getLsbD_placed]
  simp [hi, show ¬ 28 ≤ i by omega, show i < 32 by omega]

/-- The offset and data fields of format FP (R112). -/
theorem offset_formatFP (op : BitVec 4) (b : Bank) (o : Offset) (d : Byte) :
    (formatFP op b o d).extractLsb' 8 14 = o := by
  apply BitVec.eq_of_getLsbD_eq
  intro i hi
  simp only [formatFP, BitVec.getLsbD_extractLsb', BitVec.getLsbD_or, getLsbD_placed]
  simp [hi, show ¬ 28 ≤ 8 + i by omega, show ¬ 22 ≤ 8 + i by omega,
    show 8 + i < 32 by omega]

theorem data_formatFP (op : BitVec 4) (b : Bank) (o : Offset) (d : Byte) :
    (formatFP op b o d).extractLsb' 0 8 = d := by
  apply BitVec.eq_of_getLsbD_eq
  intro i hi
  simp only [formatFP, BitVec.getLsbD_extractLsb', BitVec.getLsbD_or, getLsbD_placed]
  simp [hi, show ¬ 28 ≤ i by omega, show ¬ 22 ≤ i by omega,
    show ¬ 8 ≤ i by omega, show i < 32 by omega]

/-! ### Encoded words match their row's mask and pattern -/

theorem mask_formatFN (op : BitVec 4) (n : Count) :
    formatFN op n &&& 0xFF000000 = placed 28 op := by
  apply BitVec.eq_of_getLsbD_eq
  intro i hi
  by_cases h : i < 24
  · have : (0xFF000000 : Word).getLsbD i = false := by
      interval_cases i <;> rfl
    simp only [formatFN, BitVec.getLsbD_and, BitVec.getLsbD_or, getLsbD_placed, this]
    simp [show ¬ 28 ≤ i by omega]
  · have h1 : (0xFF000000 : Word).getLsbD i = true := by
      interval_cases i <;> rfl
    simp only [formatFN, BitVec.getLsbD_and, BitVec.getLsbD_or, getLsbD_placed, h1,
      BitVec.getLsbD_of_ge n (i - 0) (by omega)]
    simp

theorem mask_formatFM (op : BitVec 4) (m : Variant) (a : Aspect) :
    formatFM op m a &&& 0xFFFFFFFC = placed 28 op := by
  revert op; cases m <;> cases a <;> decide

theorem mask_formatF0 (op : BitVec 4) : formatF0 op &&& 0xFFFFFFFF = placed 28 op := by
  revert op; decide

theorem mask_formatFC (op : BitVec 4) (c : Colour) :
    formatFC op c &&& 0xFFFFFFF8 = placed 28 op := by
  revert op c; decide

theorem mask_formatF1 (op : BitVec 4) (v : BitVec 1) :
    formatF1 op v &&& 0xFFFFFFFE = placed 28 op := by
  revert op v; decide

theorem mask_formatFP (op : BitVec 4) (b : Bank) (o : Offset) (d : Byte) :
    formatFP op b o d &&& 0xFF800000 = placed 28 op := by
  apply BitVec.eq_of_getLsbD_eq
  intro i hi
  by_cases h : i < 23
  · have : (0xFF800000 : Word).getLsbD i = false := by
      interval_cases i <;> rfl
    simp only [formatFP, BitVec.getLsbD_and, BitVec.getLsbD_or, getLsbD_placed, this]
    simp [show ¬ 28 ≤ i by omega]
  · have h1 : (0xFF800000 : Word).getLsbD i = true := by
      interval_cases i <;> rfl
    simp only [formatFP, BitVec.getLsbD_and, BitVec.getLsbD_or, getLsbD_placed, h1,
      BitVec.getLsbD_of_ge d (i - 0) (by omega), BitVec.getLsbD_of_ge o (i - 8) (by omega),
      BitVec.getLsbD_of_ge b.bit (i - 22) (by omega)]
    simp

end Sys2Proof
end

