-- ==== Sys2Proof/Laws/State.lean ====
section
/-! SUPPORT. One lemma per field per shared update, true by rfl, so that no proof unfolds a record
update; and what the sequencing operations do. -/

namespace Sys2Proof.Machine

/-! ### raise -/

@[simp] theorem raise_mode (k : FaultKind) (s : State) : (raise k s).mode = s.mode := rfl
@[simp] theorem raise_vstat (k : FaultKind) (s : State) : (raise k s).vstat = s.vstat := rfl
@[simp] theorem raise_phase (k : FaultKind) (s : State) : (raise k s).phase = s.phase := rfl
@[simp] theorem raise_line (k : FaultKind) (s : State) : (raise k s).line = s.line := rfl
@[simp] theorem raise_col (k : FaultKind) (s : State) : (raise k s).col = s.col := rfl
@[simp] theorem raise_target (k : FaultKind) (s : State) : (raise k s).target = s.target := rfl
@[simp] theorem raise_carry (k : FaultKind) (s : State) : (raise k s).carry = s.carry := rfl
@[simp] theorem raise_cyc (k : FaultKind) (s : State) : (raise k s).cyc = s.cyc := rfl
@[simp] theorem raise_osdActive (k : FaultKind) (s : State) : (raise k s).osdActive = s.osdActive := rfl
@[simp] theorem raise_palette (k : FaultKind) (s : State) : (raise k s).palette = s.palette := rfl
@[simp] theorem raise_alu (k : FaultKind) (s : State) : (raise k s).alu = s.alu := rfl
@[simp] theorem raise_bmpOff (k : FaultKind) (s : State) : (raise k s).bmpOff = s.bmpOff := rfl
@[simp] theorem raise_attrOff (k : FaultKind) (s : State) : (raise k s).attrOff = s.attrOff := rfl
@[simp] theorem raise_borderWord (k : FaultKind) (s : State) : (raise k s).borderWord = s.borderWord := rfl
@[simp] theorem raise_bcache (k : FaultKind) (s : State) : (raise k s).bcache = s.bcache := rfl
@[simp] theorem raise_border (k : FaultKind) (s : State) : (raise k s).border = s.border := rfl
@[simp] theorem raise_flash (k : FaultKind) (s : State) : (raise k s).flash = s.flash := rfl
@[simp] theorem raise_osdVisible (k : FaultKind) (s : State) : (raise k s).osdVisible = s.osdVisible := rfl
@[simp] theorem raise_latch (k : FaultKind) (s : State) : (raise k s).latch = s.latch := rfl
@[simp] theorem raise_vram (k : FaultKind) (s : State) : (raise k s).vram = s.vram := rfl
@[simp] theorem raise_fb (k : FaultKind) (s : State) : (raise k s).fb = s.fb := rfl
@[simp] theorem raise_out (k : FaultKind) (s : State) : (raise k s).out = s.out := rfl
@[simp] theorem raise_fault (k : FaultKind) (s : State) : (raise k s).fault = some k := rfl
@[simp] theorem raise_inputs (k : FaultKind) (s : State) : (raise k s).inputs = s.inputs := rfl
@[simp] theorem raise_allocs (k : FaultKind) (s : State) : (raise k s).allocs = s.allocs := rfl
@[simp] theorem raise_draws (k : FaultKind) (s : State) : (raise k s).draws = s.draws := rfl
@[simp] theorem raise_configs (k : FaultKind) (s : State) : (raise k s).configs = s.configs := rfl

/-! ### emit -/

@[simp] theorem emit_mode (v : Byte) (s : State) : (emit v s).mode = s.mode := rfl
@[simp] theorem emit_vstat (v : Byte) (s : State) : (emit v s).vstat = s.vstat := rfl
@[simp] theorem emit_phase (v : Byte) (s : State) : (emit v s).phase = s.phase := rfl
@[simp] theorem emit_line (v : Byte) (s : State) : (emit v s).line = s.line := rfl
@[simp] theorem emit_col (v : Byte) (s : State) : (emit v s).col = s.col := rfl
@[simp] theorem emit_target (v : Byte) (s : State) : (emit v s).target = s.target := rfl
@[simp] theorem emit_carry (v : Byte) (s : State) : (emit v s).carry = s.carry := rfl
@[simp] theorem emit_cyc (v : Byte) (s : State) : (emit v s).cyc = s.cyc := rfl
@[simp] theorem emit_osdActive (v : Byte) (s : State) : (emit v s).osdActive = s.osdActive := rfl
@[simp] theorem emit_palette (v : Byte) (s : State) : (emit v s).palette = s.palette := rfl
@[simp] theorem emit_alu (v : Byte) (s : State) : (emit v s).alu = s.alu := rfl
@[simp] theorem emit_bmpOff (v : Byte) (s : State) : (emit v s).bmpOff = s.bmpOff := rfl
@[simp] theorem emit_attrOff (v : Byte) (s : State) : (emit v s).attrOff = s.attrOff := rfl
@[simp] theorem emit_borderWord (v : Byte) (s : State) : (emit v s).borderWord = s.borderWord := rfl
@[simp] theorem emit_bcache (v : Byte) (s : State) : (emit v s).bcache = s.bcache := rfl
@[simp] theorem emit_border (v : Byte) (s : State) : (emit v s).border = s.border := rfl
@[simp] theorem emit_flash (v : Byte) (s : State) : (emit v s).flash = s.flash := rfl
@[simp] theorem emit_osdVisible (v : Byte) (s : State) : (emit v s).osdVisible = s.osdVisible := rfl
@[simp] theorem emit_latch (v : Byte) (s : State) : (emit v s).latch = s.latch := rfl
@[simp] theorem emit_vram (v : Byte) (s : State) : (emit v s).vram = s.vram := rfl
@[simp] theorem emit_fb (v : Byte) (s : State) : (emit v s).fb = s.fb := rfl
@[simp] theorem emit_out (v : Byte) (s : State) : (emit v s).out = s.out ++ [v] := rfl
@[simp] theorem emit_fault (v : Byte) (s : State) : (emit v s).fault = s.fault := rfl
@[simp] theorem emit_inputs (v : Byte) (s : State) : (emit v s).inputs = s.inputs := rfl
@[simp] theorem emit_allocs (v : Byte) (s : State) : (emit v s).allocs = s.allocs := rfl
@[simp] theorem emit_draws (v : Byte) (s : State) : (emit v s).draws = s.draws := rfl
@[simp] theorem emit_configs (v : Byte) (s : State) : (emit v s).configs = s.configs := rfl

/-! ### fbWrite: only FB and FAULT can change -/

@[simp] theorem fbWrite_mode (r j : Nat) (w : Word) (s : State) : (fbWrite r j w s).mode = s.mode := by
  unfold fbWrite; split <;> rfl
@[simp] theorem fbWrite_vstat (r j : Nat) (w : Word) (s : State) : (fbWrite r j w s).vstat = s.vstat := by
  unfold fbWrite; split <;> rfl
@[simp] theorem fbWrite_phase (r j : Nat) (w : Word) (s : State) : (fbWrite r j w s).phase = s.phase := by
  unfold fbWrite; split <;> rfl
@[simp] theorem fbWrite_line (r j : Nat) (w : Word) (s : State) : (fbWrite r j w s).line = s.line := by
  unfold fbWrite; split <;> rfl
@[simp] theorem fbWrite_col (r j : Nat) (w : Word) (s : State) : (fbWrite r j w s).col = s.col := by
  unfold fbWrite; split <;> rfl
@[simp] theorem fbWrite_target (r j : Nat) (w : Word) (s : State) : (fbWrite r j w s).target = s.target := by
  unfold fbWrite; split <;> rfl
@[simp] theorem fbWrite_carry (r j : Nat) (w : Word) (s : State) : (fbWrite r j w s).carry = s.carry := by
  unfold fbWrite; split <;> rfl
@[simp] theorem fbWrite_cyc (r j : Nat) (w : Word) (s : State) : (fbWrite r j w s).cyc = s.cyc := by
  unfold fbWrite; split <;> rfl
@[simp] theorem fbWrite_osdActive (r j : Nat) (w : Word) (s : State) : (fbWrite r j w s).osdActive = s.osdActive := by
  unfold fbWrite; split <;> rfl
@[simp] theorem fbWrite_palette (r j : Nat) (w : Word) (s : State) : (fbWrite r j w s).palette = s.palette := by
  unfold fbWrite; split <;> rfl
@[simp] theorem fbWrite_alu (r j : Nat) (w : Word) (s : State) : (fbWrite r j w s).alu = s.alu := by
  unfold fbWrite; split <;> rfl
@[simp] theorem fbWrite_bmpOff (r j : Nat) (w : Word) (s : State) : (fbWrite r j w s).bmpOff = s.bmpOff := by
  unfold fbWrite; split <;> rfl
@[simp] theorem fbWrite_attrOff (r j : Nat) (w : Word) (s : State) : (fbWrite r j w s).attrOff = s.attrOff := by
  unfold fbWrite; split <;> rfl
@[simp] theorem fbWrite_borderWord (r j : Nat) (w : Word) (s : State) : (fbWrite r j w s).borderWord = s.borderWord := by
  unfold fbWrite; split <;> rfl
@[simp] theorem fbWrite_bcache (r j : Nat) (w : Word) (s : State) : (fbWrite r j w s).bcache = s.bcache := by
  unfold fbWrite; split <;> rfl
@[simp] theorem fbWrite_border (r j : Nat) (w : Word) (s : State) : (fbWrite r j w s).border = s.border := by
  unfold fbWrite; split <;> rfl
@[simp] theorem fbWrite_flash (r j : Nat) (w : Word) (s : State) : (fbWrite r j w s).flash = s.flash := by
  unfold fbWrite; split <;> rfl
@[simp] theorem fbWrite_osdVisible (r j : Nat) (w : Word) (s : State) : (fbWrite r j w s).osdVisible = s.osdVisible := by
  unfold fbWrite; split <;> rfl
@[simp] theorem fbWrite_latch (r j : Nat) (w : Word) (s : State) : (fbWrite r j w s).latch = s.latch := by
  unfold fbWrite; split <;> rfl
@[simp] theorem fbWrite_vram (r j : Nat) (w : Word) (s : State) : (fbWrite r j w s).vram = s.vram := by
  unfold fbWrite; split <;> rfl
@[simp] theorem fbWrite_out (r j : Nat) (w : Word) (s : State) : (fbWrite r j w s).out = s.out := by
  unfold fbWrite; split <;> rfl
@[simp] theorem fbWrite_inputs (r j : Nat) (w : Word) (s : State) : (fbWrite r j w s).inputs = s.inputs := by
  unfold fbWrite; split <;> rfl
@[simp] theorem fbWrite_allocs (r j : Nat) (w : Word) (s : State) : (fbWrite r j w s).allocs = s.allocs := by
  unfold fbWrite; split <;> rfl
@[simp] theorem fbWrite_draws (r j : Nat) (w : Word) (s : State) : (fbWrite r j w s).draws = s.draws := by
  unfold fbWrite; split <;> rfl
@[simp] theorem fbWrite_configs (r j : Nat) (w : Word) (s : State) : (fbWrite r j w s).configs = s.configs := by
  unfold fbWrite; split <;> rfl

/-- An index inside the frame buffer, in the form arithmetic uses (R84). -/
theorem State.inFrameBuffer_iff (s : State) (r j : Nat) :
    s.inFrameBuffer r j = true ↔ r < s.cfg.vres ∧ j < s.cfg.wpr := by
  simp [State.inFrameBuffer]

theorem fbWrite_inside {r j : Nat} {w : Word} {s : State} (h : s.inFrameBuffer r j = true) :
    fbWrite r j w s = { s with fb := FrameBuffer.write s.fb r j w } := by
  simp [fbWrite, h]

theorem fbWrite_outside {r j : Nat} {w : Word} {s : State} (h : s.inFrameBuffer r j = false) :
    fbWrite r j w s = raise .boundsViolation s := by
  simp [fbWrite, h]

/-! ### CFG depends on MODE and the parameter only -/

theorem State.cfg_congr {s t : State} (hm : t.mode = s.mode) (hc : t.configs = s.configs) :
    t.cfg = s.cfg := by
  simp [State.cfg, hm, hc]

@[simp] theorem raise_cfg (k : FaultKind) (s : State) : (raise k s).cfg = s.cfg := rfl
@[simp] theorem emit_cfg (v : Byte) (s : State) : (emit v s).cfg = s.cfg := rfl
@[simp] theorem fbWrite_cfg (r j : Nat) (w : Word) (s : State) : (fbWrite r j w s).cfg = s.cfg :=
  State.cfg_congr (by simp) (by simp)

/-! ### Sequencing -/

theorem andThen_stopped {s : State} {k : FaultKind} (h : s.fault = some k) (f : State → State) :
    andThen s f = s := by
  simp [andThen, h]

theorem andThen_running {s : State} (h : s.fault = none) (f : State → State) :
    andThen s f = f s := by
  simp [andThen, h]

/-- A property of the first part that the second part keeps holds of the whole. -/
theorem andThen_keeps {P : State → Prop} {s : State} {f : State → State} (hs : P s)
    (hf : ∀ t, P t → P (f t)) : P (andThen s f) := by
  unfold andThen
  split
  · exact hs
  · exact hf s hs

theorem applyCommand_running {s : State} (h : s.fault = none) (f : State → State) :
    applyCommand s f = .next (f s) := by
  simp [applyCommand, andThen_running h]

theorem applyCommand_stopped {s : State} {k : FaultKind} (h : s.fault = some k)
    (f : State → State) : applyCommand s f = .next s := by
  simp [applyCommand, andThen_stopped h]

/-- Every command answers a next state. -/
theorem applyCommand_next (s : State) (f : State → State) :
    applyCommand s f = .next (andThen s f) := rfl

@[simp] theorem readInput_some {α : Type} (i : Input) (v : α) (s : State) (use : α → State) :
    readInput i (some v) s use = use v := rfl

@[simp] theorem readInput_none {α : Type} (i : Input) (s : State) (use : α → State) :
    readInput i none s use = raise (.unwrittenInput i) s := rfl

theorem readBorder_written {s : State} {c : Colour} (h : s.border = some c) (use : Colour → State) :
    readBorder s use = use c := by
  simp [readBorder, h]

theorem readFlash_written {s : State} {v : Bool} (h : s.flash = some v) (use : Bool → State) :
    readFlash s use = use v := by
  simp [readFlash, h]

theorem readOsdVisible_written {s : State} {v : Bool} (h : s.osdVisible = some v)
    (use : Bool → State) : readOsdVisible s use = use v := by
  simp [readOsdVisible, h]

theorem readLatch_written {s : State} {b : Bank} (h : s.latch = some b) (use : Bank → State) :
    readLatch s use = use b := by
  simp [readLatch, h]

/-- What a read of an input can do: raise UnwrittenInput, or go on with the value (R46). -/
theorem readInput_cases {α : Type} (i : Input) (value : Option α) (s : State)
    (use : α → State) :
    readInput i value s use = raise (.unwrittenInput i) s ∨
      ∃ v, value = some v ∧ readInput i value s use = use v := by
  cases value with
  | none => exact .inl rfl
  | some v => exact .inr ⟨v, rfl, rfl⟩

@[simp] theorem zextCount_toNat (n : Count) : (zextCount n).toNat = n.toNat := by
  have := n.isLt
  simp only [zextCount, BitVec.toNat_setWidth]
  omega

/-- The draw sub-state of a wait sub-state is a draw sub-state (R200). -/
theorem isDraw_drawOf {p : Phase} (h : isWait p = true) : isDraw (drawOf p) = true := by
  cases p <;> simp_all [isWait, isDraw, drawOf]

theorem isWait_not_isDraw {p : Phase} (h : isWait p = true) : isDraw p = false := by
  cases p <;> simp_all [isWait, isDraw]

end Sys2Proof.Machine
end

