-- ==== Sys2Proof/Laws/Tables.lean ====
section
/-! SUPPORT. What the table builders put at each index, pixel lanes, and the configuration checks in
the form arithmetic uses. -/

namespace Sys2Proof.Machine

@[simp] theorem tabulate_get {α : Type} (n : Nat) (f : Nat → α) (i : Fin n) :
    (tabulate n f).get i = f i := by
  simp [tabulate, Vector.get]
  rfl

@[simp] theorem paletteAt_buildPalette (c : Cfg) (k : BitVec 4) :
    paletteAt (buildPalette c) k = deviceColour c (paletteAt c.rawColors k) := by
  have h : BitVec.ofNat 4 (k.toFin : Nat) = k := by simp
  unfold buildPalette
  rw [paletteAt, tabulate_get, h]

@[simp] theorem aluAt_buildAluTable (p : Palette) (n : BitVec 4) (a : Byte) :
    aluAt (buildAluTable p) n a = aluEntry p n a := by
  simp [aluAt, buildAluTable]

@[simp] theorem borderWordAt_buildBorderWords (p : Palette) (c : Colour) :
    borderWordAt (buildBorderWords p) c = replicate4 (paletteAt p (c.setWidth 4)) := by
  have h : BitVec.ofNat 4 c.toNat = c.setWidth 4 := by
    apply BitVec.eq_of_toNat_eq; simp
  simp [borderWordAt, buildBorderWords, h]

@[simp] theorem buildBmpOff_getElem? (c : Cfg) (i : Nat) :
    (buildBmpOff c)[i]? =
      if i < c.screenLines then some (BitVec.ofNat 14 (bmpOffset i)) else none := by
  unfold buildBmpOff
  split <;> simp_all

@[simp] theorem buildAttrOff_getElem? (c : Cfg) (i : Nat) :
    (buildAttrOff c)[i]? =
      if i < c.screenLines then some (BitVec.ofNat 14 (attrOffset c i)) else none := by
  unfold buildAttrOff
  split <;> simp_all

@[simp] theorem buildBmpOff_length (c : Cfg) : (buildBmpOff c).length = c.screenLines := by
  simp [buildBmpOff]

@[simp] theorem buildAttrOff_length (c : Cfg) : (buildAttrOff c).length = c.screenLines := by
  simp [buildAttrOff]

@[simp] theorem invalidBcache_length (c : Cfg) : (invalidBcache c).length = c.vres := by
  simp [invalidBcache]

/-! ### Lanes (R86, R149) -/

@[simp] theorem lane_pack_0 (p0 p1 p2 p3 : Byte) : lane (pack p0 p1 p2 p3) 0 = p0 := by
  apply BitVec.eq_of_getLsbD_eq
  intro i hi
  simp only [lane, pack, BitVec.getLsbD_extractLsb', BitVec.getLsbD_or, BitVec.getLsbD_shiftLeft,
    BitVec.getLsbD_setWidth]
  simp [hi, show i < 16 by omega, show i < 24 by omega, show i < 32 by omega]

@[simp] theorem lane_pack_1 (p0 p1 p2 p3 : Byte) : lane (pack p0 p1 p2 p3) 1 = p1 := by
  apply BitVec.eq_of_getLsbD_eq
  intro i hi
  simp only [lane, pack, BitVec.getLsbD_extractLsb', BitVec.getLsbD_or, BitVec.getLsbD_shiftLeft,
    BitVec.getLsbD_setWidth]
  simp [hi, show 8 + i < 16 by omega, show 8 + i < 24 by omega, show 8 + i < 32 by omega,
    show ¬ 8 + i < 8 by omega]
  omega

@[simp] theorem lane_pack_2 (p0 p1 p2 p3 : Byte) : lane (pack p0 p1 p2 p3) 2 = p2 := by
  apply BitVec.eq_of_getLsbD_eq
  intro i hi
  simp only [lane, pack, BitVec.getLsbD_extractLsb', BitVec.getLsbD_or, BitVec.getLsbD_shiftLeft,
    BitVec.getLsbD_setWidth]
  simp [hi, show 16 + i < 24 by omega, show 16 + i < 32 by omega, show ¬ 16 + i < 8 by omega,
    show ¬ 16 + i < 16 by omega, show i < 32 by omega,
    BitVec.getLsbD_of_ge p0 (16 + i) (by omega), BitVec.getLsbD_of_ge p1 (16 + i - 8) (by omega)]

@[simp] theorem lane_pack_3 (p0 p1 p2 p3 : Byte) : lane (pack p0 p1 p2 p3) 3 = p3 := by
  apply BitVec.eq_of_getLsbD_eq
  intro i hi
  simp only [lane, pack, BitVec.getLsbD_extractLsb', BitVec.getLsbD_or, BitVec.getLsbD_shiftLeft,
    BitVec.getLsbD_setWidth]
  simp [hi, show 24 + i < 32 by omega, show i < 32 by omega,
    BitVec.getLsbD_of_ge p0 (24 + i) (by omega), BitVec.getLsbD_of_ge p1 (24 + i - 8) (by omega),
    BitVec.getLsbD_of_ge p2 (24 + i - 16) (by omega)]

end Sys2Proof.Machine

namespace Sys2Proof


/-- W7 in the rule's form: "for every i in [0, SCREEN_LINES)" (R9). -/
theorem Cfg.w7_iff (c : Cfg) : c.W7 ↔ ∀ i < c.screenLines, c.OffsetsFit i := by
  constructor
  · intro h i hi
    have := h (i / 8) (by omega) (i % 8) (by omega) (by omega)
    rwa [show 8 * (i / 8) + i % 8 = i by omega] at this
  · intro h row _ k _ hk
    exact h _ hk

/-- The configuration a mode selects among admitted ones is admitted (R9). -/
theorem Configs.admitted_select {cs : Configs} (h : cs.admitted = true) (m : Mode) :
    (cs.select m).Admitted := by
  simp only [Configs.admitted, Bool.and_eq_true, decide_eq_true_eq] at h
  obtain ⟨⟨⟨h1, h2⟩, h3⟩, h4⟩ := h
  obtain ⟨v, a⟩ := m
  cases v <;> cases a <;> assumption

end Sys2Proof
end

