-- ==== Sys2Proof/Laws/Exec.lean ====
section
/-! SUPPORT. `exec` and `step`: every command answers a next state, the step's cases. -/

namespace Sys2Proof.Machine

/-- Every command answers a next state: no command stops the machine. -/
theorem exec_next (i : Instr) (s : State) : ∃ t, exec i s = .next t := by
  cases i <;> exact ⟨_, rfl⟩

/-- A faulted block ignores every command (R300). -/
theorem exec_stopped {s : State} {k : FaultKind} (h : s.fault = some k) (i : Instr) :
    exec i s = .next s := by
  cases i <;> exact applyCommand_stopped h _

/-- What a step can do: refuse an unadmitted configuration, or take the next item. -/
theorem step_cases (s : State) :
    (s.configs.admitted = false ∧ step s = .refused .configurationNotAdmitted) ∨
      (s.configs.admitted = true ∧ step s = takeInput s) := by
  unfold step
  by_cases h : s.configs.admitted = true
  · exact .inr ⟨h, if_pos h⟩
  · exact .inl ⟨by simpa using h, if_neg h⟩

/-- A step that answers a next state was taken under admitted configurations (R312). -/
theorem step_next_admitted {s t : State} (h : step s = .next t) : s.configs.admitted = true := by
  rcases step_cases s with ⟨-, h'⟩ | ⟨ha, -⟩
  · rw [h'] at h; cases h
  · exact ha

theorem step_of_admitted {s : State} (h : s.configs.admitted = true) : step s = takeInput s :=
  if_pos h

end Sys2Proof.Machine
end

