-- ==== Sys2Proof/Laws/PerInstr.lean ====
section
/-! SUPPORT. Facts made per command: the family `Legal` says that a command's word matches the mask
and pattern of its own row of the opcode table (spec/30_encoding.md R116). -/

namespace Sys2Proof.Laws.Legal

/-- The opcode of a command (R114). -/
def opcode : Instr → BitVec 4
  | .init _ _ => 0x1
  | .reset _ _ => 0x2
  | .advance _ => 0x3
  | .flush => 0x4
  | .sample _ => 0x5
  | .setBorder _ => 0x6
  | .setOverlay _ => 0x7
  | .setFlash _ => 0x8
  | .setLatch _ => 0x9
  | .setCycles _ => 0xA
  | .frameWrap => 0xB
  | .poke _ _ _ => 0xC

/-- The command's word carries the command's opcode and is legal under that opcode's row. -/
def Statement (i : Instr) : Prop :=
  opField (encode i) = opcode i ∧
    ∃ row, rowOf (opcode i) = some row ∧ encode i &&& row.mask = row.pattern

theorem init (m : Variant) (a : Aspect) : Statement (.init m a) :=
  ⟨opField_formatFM _ m a, ⟨0x1, 0xFFFFFFFC, 0x10000000⟩, rfl, mask_formatFM 0x1 m a⟩

theorem reset (m : Variant) (a : Aspect) : Statement (.reset m a) :=
  ⟨opField_formatFM _ m a, ⟨0x2, 0xFFFFFFFC, 0x20000000⟩, rfl, mask_formatFM 0x2 m a⟩

theorem advance (n : Count) : Statement (.advance n) :=
  ⟨opField_formatFN _ n, ⟨0x3, 0xFF000000, 0x30000000⟩, rfl, mask_formatFN 0x3 n⟩

theorem flush : Statement .flush :=
  ⟨opField_formatF0 _, ⟨0x4, 0xFFFFFFFF, 0x40000000⟩, rfl, mask_formatF0 0x4⟩

theorem sample (n : Count) : Statement (.sample n) :=
  ⟨opField_formatFN _ n, ⟨0x5, 0xFF000000, 0x50000000⟩, rfl, mask_formatFN 0x5 n⟩

theorem setBorder (c : Colour) : Statement (.setBorder c) :=
  ⟨opField_formatFC _ c, ⟨0x6, 0xFFFFFFF8, 0x60000000⟩, rfl, mask_formatFC 0x6 c⟩

theorem setOverlay (v : Bool) : Statement (.setOverlay v) :=
  ⟨opField_formatF1 _ _, ⟨0x7, 0xFFFFFFFE, 0x70000000⟩, rfl, mask_formatF1 0x7 _⟩

theorem setFlash (v : Bool) : Statement (.setFlash v) :=
  ⟨opField_formatF1 _ _, ⟨0x8, 0xFFFFFFFE, 0x80000000⟩, rfl, mask_formatF1 0x8 _⟩

theorem setLatch (v : Bank) : Statement (.setLatch v) :=
  ⟨opField_formatF1 _ _, ⟨0x9, 0xFFFFFFFE, 0x90000000⟩, rfl, mask_formatF1 0x9 _⟩

theorem setCycles (n : Count) : Statement (.setCycles n) :=
  ⟨opField_formatFN _ n, ⟨0xA, 0xFF000000, 0xA0000000⟩, rfl, mask_formatFN 0xA n⟩

theorem frameWrap : Statement .frameWrap :=
  ⟨opField_formatF0 _, ⟨0xB, 0xFFFFFFFF, 0xB0000000⟩, rfl, mask_formatF0 0xB⟩

theorem poke (b : Bank) (o : Offset) (d : Byte) : Statement (.poke b o d) :=
  ⟨opField_formatFP _ b o d, ⟨0xC, 0xFF800000, 0xC0000000⟩, rfl, mask_formatFP 0xC b o d⟩

end Sys2Proof.Laws.Legal
end

