-- ==== Sys2Proof/Laws/Raster.lean ====
section
/-! SUPPORT. What each operation of the line writer and the raster machine can change: one frame
lemma per operation, in the form "the state with these fields replaced". -/

namespace Sys2Proof.Machine

/-! ### The line writer changes FB, BCACHE and FAULT only -/

theorem fbWrite_frame (r j : Nat) (w : Word) (s : State) :
    ∃ fb f, fbWrite r j w s = { s with fb := fb, fault := f } := by
  unfold fbWrite
  split
  · exact ⟨_, s.fault, rfl⟩
  · exact ⟨s.fb, _, rfl⟩

theorem writePair_frame (r u : Nat) (w0 w1 : Word) (s : State) :
    ∃ fb f, writePair r u w0 w1 s = { s with fb := fb, fault := f } := by
  unfold writePair andThen
  obtain ⟨fb, f, h⟩ := fbWrite_frame r (s.cfg.rwo + 2 * u) w0 s
  rw [h]
  split
  · exact ⟨fb, f, rfl⟩
  · obtain ⟨fb', f', h'⟩ := fbWrite_frame r (s.cfg.rwo + 2 * u + 1) w1
      { s with fb := fb, fault := f }
    exact ⟨fb', f', h'⟩

theorem borderUnit_frame (r u : Nat) (s : State) :
    ∃ fb bc f, borderUnit r u s = { s with fb := fb, bcache := bc, fault := f } := by
  unfold borderUnit readBorder
  rcases readInput_cases .border s.border s (fun col =>
      andThen (writePair r u (borderWordAt s.borderWord col) (borderWordAt s.borderWord col) s)
        (cacheBorder r col)) with h | ⟨c, -, h⟩
  · exact ⟨s.fb, s.bcache, _, h⟩
  · rw [h]
    obtain ⟨fb, f, h'⟩ := writePair_frame r u (borderWordAt s.borderWord c)
      (borderWordAt s.borderWord c) s
    rw [h']
    unfold andThen
    split
    · exact ⟨fb, s.bcache, f, rfl⟩
    · exact ⟨fb, _, f, rfl⟩

theorem screenUnit_frame (r u : Nat) (s : State) :
    ∃ fb f, screenUnit r u s = { s with fb := fb, fault := f } := by
  unfold screenUnit readLatch withFlash readFlash writeCell readInput
  split
  · dsimp only
    split
    · split
      · exact writePair_frame ..
      · exact ⟨s.fb, _, rfl⟩
    · exact writePair_frame ..
  · exact ⟨s.fb, _, rfl⟩

/-- Everything emitting a unit can change (R206, R208, R209, R211). -/
theorem emitUnit_frame (s : State) :
    ∃ fb bc f, emitUnit s = { s with fb := fb, bcache := bc, fault := f } := by
  unfold emitUnit
  split
  · exact ⟨s.fb, s.bcache, s.fault, rfl⟩
  · split
    · obtain ⟨fb, f, h⟩ := screenUnit_frame s.line s.col s
      exact ⟨fb, s.bcache, f, h⟩
    · exact borderUnit_frame s.line s.col s

/-- Everything completing a row can change (R207). -/
theorem rowDone_frame (s : State) :
    rowDone s =
      { s with
        col := 0
        phase := (nextRow s.cfg s.phase (s.line + 1)).1
        line := (nextRow s.cfg s.phase (s.line + 1)).2 } := rfl

/-- Everything the draw loop can change (R206). -/
theorem emitUnits_frame (k : Nat) (s : State) :
    ∃ p l u fb bc f, emitUnits k s =
      { s with phase := p, line := l, col := u, fb := fb, bcache := bc, fault := f } := by
  induction k generalizing s with
  | zero => exact ⟨s.phase, s.line, s.col, s.fb, s.bcache, s.fault, rfl⟩
  | succ k ih =>
    obtain ⟨fb, bc, f, h⟩ := emitUnit_frame s
    unfold emitUnits andThen
    rw [h]
    split
    · exact ⟨s.phase, s.line, s.col, fb, bc, f, rfl⟩
    · dsimp only
      split
      · exact ⟨_, _, _, fb, bc, f, rfl⟩
      · obtain ⟨p, l, u, fb', bc', f', h'⟩ := ih
          { s with fb := fb, bcache := bc, fault := f, col := s.col + 1 }
        exact ⟨p, l, u, fb', bc', f', h'⟩

/-- Everything the draw body can change (R206). -/
theorem drawBody_frame (b : Nat) (s : State) :
    ∃ p l u ca fb bc f, drawBody b s =
      { s with
        phase := p, line := l, col := u, carry := ca, fb := fb, bcache := bc, fault := f } := by
  unfold drawBody
  obtain ⟨p, l, u, fb, bc, f, h⟩ := emitUnits_frame ((b + s.carry.toNat) / 4)
    { s with carry := BitVec.ofNat 32 ((b + s.carry.toNat) % 4) }
  exact ⟨p, l, u, _, fb, bc, f, h⟩

/-- Everything a boundary crossing can change (R205). -/
theorem crossBoundary_frame (s : State) :
    ∃ p l u ta ca o fb bc f, crossBoundary s =
      { s with
        phase := p, line := l, col := u, target := ta, carry := ca, osdActive := o,
        fb := fb, bcache := bc, fault := f } := by
  unfold crossBoundary latchVariant readOsdVisible readInput
  dsimp only
  split
  · rename_i v _
    unfold andThen
    split
    · exact ⟨s.phase, s.line, 0, _, _, v, s.fb, s.bcache, s.fault, rfl⟩
    · obtain ⟨p, l, u, ca, fb, bc, f, h⟩ := drawBody_frame 0
        { s with
          carry := s.cyc - s.target, target := s.target + BitVec.ofNat 32 s.cfg.cpl, col := 0,
          osdActive := v, phase := drawOf s.phase }
      exact ⟨p, l, u, _, ca, v, fb, bc, f, h⟩
  · exact ⟨s.phase, s.line, 0, _, _, s.osdActive, s.fb, s.bcache, _, rfl⟩

/-- Everything the dispatch on PHASE can change (R202). -/
theorem phaseStep_frame (n : Nat) (s : State) :
    ∃ p l u ta ca o fb bc f, phaseStep n s =
      { s with
        phase := p, line := l, col := u, target := ta, carry := ca, osdActive := o,
        fb := fb, bcache := bc, fault := f } := by
  have wait : ∃ p l u ta ca o fb bc f, waitStep s =
      { s with
        phase := p, line := l, col := u, target := ta, carry := ca, osdActive := o,
        fb := fb, bcache := bc, fault := f } := by
    unfold waitStep
    split
    · exact ⟨s.phase, s.line, s.col, s.target, s.carry, s.osdActive, s.fb, s.bcache, s.fault, rfl⟩
    · exact crossBoundary_frame s
  have draw : ∃ p l u ta ca o fb bc f, drawBody n s =
      { s with
        phase := p, line := l, col := u, target := ta, carry := ca, osdActive := o,
        fb := fb, bcache := bc, fault := f } := by
    obtain ⟨p, l, u, ca, fb, bc, f, h⟩ := drawBody_frame n s
    exact ⟨p, l, u, s.target, ca, s.osdActive, fb, bc, f, h⟩
  unfold phaseStep
  split
  · unfold blankStep
    split
    · exact ⟨_, _, _, _, s.carry, s.osdActive, s.fb, s.bcache, s.fault, rfl⟩
    · exact ⟨s.phase, s.line, s.col, s.target, s.carry, s.osdActive, s.fb, s.bcache, s.fault, rfl⟩
  all_goals first | exact wait | exact draw

/-- Everything ADVANCE can change: "State written: CYC, PHASE, LINE, COL, TARGET, CARRY,
OSD_ACTIVE, BCACHE, FB" and FAULT (R202). -/
theorem advance_frame (n : Nat) (s : State) :
    ∃ p l u ta ca cy o fb bc f, advance n s =
      { s with
        phase := p, line := l, col := u, target := ta, carry := ca, cyc := cy, osdActive := o,
        fb := fb, bcache := bc, fault := f } := by
  unfold advance
  split
  · exact ⟨s.phase, s.line, s.col, s.target, s.carry, s.cyc, s.osdActive, s.fb, s.bcache, _, rfl⟩
  · split
    · exact ⟨s.phase, s.line, s.col, s.target, s.carry, s.cyc, s.osdActive, s.fb, s.bcache, _, rfl⟩
    · obtain ⟨p, l, u, ta, ca, o, fb, bc, f, h⟩ := phaseStep_frame n
        { s with cyc := s.cyc + BitVec.ofNat 32 n }
      exact ⟨p, l, u, ta, ca, _, o, fb, bc, f, h⟩

/-- Everything FLUSH can change: "State written: as ADVANCE" (R217). -/
theorem flushPasses_frame (k : Nat) (s : State) :
    ∃ p l u ta ca cy o fb bc f, flushPasses k s =
      { s with
        phase := p, line := l, col := u, target := ta, carry := ca, cyc := cy, osdActive := o,
        fb := fb, bcache := bc, fault := f } := by
  induction k generalizing s with
  | zero =>
    exact ⟨s.phase, s.line, s.col, s.target, s.carry, s.cyc, s.osdActive, s.fb, s.bcache,
      s.fault, rfl⟩
  | succ k ih =>
    unfold flushPasses
    split
    · obtain ⟨p, l, u, ta, ca, cy, o, fb, bc, f, h⟩ := advance_frame s.cfg.cpl s
      unfold andThen
      rw [h]
      split
      · exact ⟨p, l, u, ta, ca, cy, o, fb, bc, f, rfl⟩
      · obtain ⟨p', l', u', ta', ca', cy', o', fb', bc', f', h'⟩ := ih
          { s with
            phase := p, line := l, col := u, target := ta, carry := ca, cyc := cy,
            osdActive := o, fb := fb, bcache := bc, fault := f }
        exact ⟨p', l', u', ta', ca', cy', o', fb', bc', f', h'⟩
    · exact ⟨s.phase, s.line, s.col, s.target, s.carry, s.cyc, s.osdActive, s.fb, s.bcache,
        s.fault, rfl⟩

theorem flush_frame (s : State) :
    ∃ p l u ta ca cy o fb bc f, flush s =
      { s with
        phase := p, line := l, col := u, target := ta, carry := ca, cyc := cy, osdActive := o,
        fb := fb, bcache := bc, fault := f } := by
  unfold flush
  split
  · exact ⟨s.phase, s.line, s.col, s.target, s.carry, s.cyc, s.osdActive, s.fb, s.bcache, _, rfl⟩
  · exact flushPasses_frame _ s

/-! ### The parts of ADVANCE by phase -/

theorem phaseStep_blank {n : Nat} {s : State} (h : s.phase = .blank) :
    phaseStep n s = blankStep s := by
  simp [phaseStep, h]

theorem phaseStep_wait {n : Nat} {s : State} (h : isWait s.phase = true) :
    phaseStep n s = waitStep s := by
  unfold phaseStep
  cases hp : s.phase <;> simp_all [isWait]

theorem phaseStep_draw {n : Nat} {s : State} (h : isDraw s.phase = true) :
    phaseStep n s = drawBody n s := by
  unfold phaseStep
  cases hp : s.phase <;> simp_all [isDraw]

theorem advance_ready {n : Nat} {s : State} (h : s.vstat = .ready)
    (hn : s.cyc.toNat + n < 2 ^ 32) :
    advance n s = phaseStep n { s with cyc := s.cyc + BitVec.ofNat 32 n } := by
  unfold advance
  rw [if_neg (by simp [h]), if_neg (by omega)]

theorem advance_notReady {n : Nat} {s : State} (h : s.vstat ≠ .ready) :
    advance n s = raise .notReady s := by
  unfold advance
  rw [if_pos h]

/-- CYC after step 1 of ADVANCE (R202). -/
theorem cyc_add_toNat {c : Word} {n : Nat} (h : c.toNat + n < 2 ^ 32) :
    (c + BitVec.ofNat 32 n).toNat = c.toNat + n := by
  rw [BitVec.toNat_add, BitVec.toNat_ofNat]
  omega

end Sys2Proof.Machine
end

