-- ==== Sys2Proof/Laws/Sampler.lean ====
section
/-! SUPPORT. What SAMPLE can change: OUT, or FAULT (spec/42_floating_bus.md R187). -/

namespace Sys2Proof.Machine

theorem emitFetched_frame (off : Offset) (s : State) :
    ∃ o f, emitFetched off s = { s with out := o, fault := f } := by
  unfold emitFetched readLatch readInput
  split
  · exact ⟨_, s.fault, rfl⟩
  · exact ⟨s.out, _, rfl⟩

theorem sampleSlot_frame (g phase : Nat) (s : State) :
    ∃ o f, sampleSlot g phase s = { s with out := o, fault := f } := by
  unfold sampleSlot
  dsimp only
  split
  · exact emitFetched_frame ..
  · exact emitFetched_frame ..
  · exact emitFetched_frame ..
  · exact emitFetched_frame ..
  · exact ⟨_, s.fault, rfl⟩

theorem sampleAt_frame (t : Nat) (s : State) :
    ∃ o f, sampleAt t s = { s with out := o, fault := f } := by
  unfold sampleAt
  dsimp only
  split
  · exact ⟨_, s.fault, rfl⟩
  · split
    · exact ⟨_, s.fault, rfl⟩
    · exact sampleSlot_frame ..

/-- Everything SAMPLE can change (R187). -/
theorem sample_frame (n : Nat) (s : State) :
    ∃ o f, sample n s = { s with out := o, fault := f } := by
  unfold sample
  split
  · exact ⟨s.out, _, rfl⟩
  · dsimp only
    split
    · exact ⟨_, s.fault, rfl⟩
    · exact sampleAt_frame ..

end Sys2Proof.Machine
end

