-- ==== Sys2Proof/Laws/Sparse.lean ====
section
/-! SUPPORT. Laws of sparse storage, video memory and the frame buffer: read after write, writes
leave other places alone, every write keeps the canonical form, equal reads are equal data. -/

namespace Sys2Proof.Machine

variable {α : Type}

theorem Sparse.get_insert_same (d : α) (m : Sparse α) (k : Nat) (v : α) :
    Sparse.get d (Sparse.insert m k v) k = v := by
  induction m with
  | nil => simp [Sparse.insert, Sparse.get]
  | cons e m ih =>
    obtain ⟨k', v'⟩ := e
    simp only [Sparse.insert]
    split
    · simp [Sparse.get]
    · split
      · simp [Sparse.get]
      · rename_i h h'
        simp [Sparse.get, show ¬ k' = k by omega, ih]

theorem Sparse.get_insert_other (d : α) (m : Sparse α) {k j : Nat} (v : α) (h : j ≠ k) :
    Sparse.get d (Sparse.insert m k v) j = Sparse.get d m j := by
  induction m with
  | nil => simp [Sparse.insert, Sparse.get, Ne.symm h]
  | cons e m ih =>
    obtain ⟨k', v'⟩ := e
    simp only [Sparse.insert]
    split
    · simp [Sparse.get, Ne.symm h]
    · split
      · rename_i hk; subst hk; simp [Sparse.get, Ne.symm h]
      · simp [Sparse.get, ih]

theorem Sparse.get_erase_same (d : α) (m : Sparse α) (k : Nat) :
    Sparse.get d (Sparse.erase m k) k = d := by
  induction m with
  | nil => rfl
  | cons e m ih =>
    obtain ⟨k', v'⟩ := e
    by_cases h : k' = k
    · simpa [Sparse.erase, h] using ih
    · have : Sparse.erase ((k', v') :: m) k = (k', v') :: Sparse.erase m k := by
        simp [Sparse.erase, h]
      rw [this]
      simp [Sparse.get, h, ih]

theorem Sparse.get_erase_other (d : α) (m : Sparse α) {k j : Nat} (h : j ≠ k) :
    Sparse.get d (Sparse.erase m k) j = Sparse.get d m j := by
  induction m with
  | nil => rfl
  | cons e m ih =>
    obtain ⟨k', v'⟩ := e
    by_cases hk : k' = k
    · have : Sparse.erase ((k', v') :: m) k = Sparse.erase m k := by simp [Sparse.erase, hk]
      rw [this, ih]
      simp [Sparse.get, show ¬ k' = j by omega]
    · have : Sparse.erase ((k', v') :: m) k = (k', v') :: Sparse.erase m k := by
        simp [Sparse.erase, hk]
      rw [this]
      simp [Sparse.get, ih]

variable [DecidableEq α]

@[simp] theorem Sparse.get_put_same (d : α) (m : Sparse α) (k : Nat) (v : α) :
    Sparse.get d (Sparse.put d m k v) k = v := by
  unfold Sparse.put
  split
  · rename_i h; rw [Sparse.get_erase_same, h]
  · exact Sparse.get_insert_same d m k v

theorem Sparse.get_put_other (d : α) (m : Sparse α) {k j : Nat} (v : α) (h : j ≠ k) :
    Sparse.get d (Sparse.put d m k v) j = Sparse.get d m j := by
  unfold Sparse.put
  split
  · exact Sparse.get_erase_other d m h
  · exact Sparse.get_insert_other d m v h

/-- The canonical form, in the form proofs use. -/
theorem Sparse.wf_iff (d : α) (m : Sparse α) :
    Sparse.wf d m = true ↔ (m.map Prod.fst).Pairwise (· < ·) ∧ ∀ e ∈ m, e.2 ≠ d := by
  simp [Sparse.wf]

theorem Sparse.mem_insert {m : Sparse α} {k : Nat} {v : α} {e : Nat × α}
    (h : e ∈ Sparse.insert m k v) : e = (k, v) ∨ e ∈ m := by
  induction m with
  | nil => simp_all [Sparse.insert]
  | cons f m ih =>
    obtain ⟨k', v'⟩ := f
    simp only [Sparse.insert] at h
    split at h
    · simpa using h
    · split at h
      · simp only [List.mem_cons] at h ⊢
        tauto
      · simp only [List.mem_cons] at h ⊢
        rcases h with h | h
        · tauto
        · rcases ih h with h | h <;> tauto

theorem Sparse.insert_pairwise {m : Sparse α} (k : Nat) (v : α)
    (h : (m.map Prod.fst).Pairwise (· < ·)) :
    ((Sparse.insert m k v).map Prod.fst).Pairwise (· < ·) := by
  induction m with
  | nil => simp [Sparse.insert]
  | cons f m ih =>
    obtain ⟨k', v'⟩ := f
    simp only [List.map_cons, List.pairwise_cons] at h
    simp only [Sparse.insert]
    split
    · rename_i hk
      simp only [List.map_cons, List.pairwise_cons]
      refine ⟨fun a ha => ?_, h.1, h.2⟩
      rcases List.mem_cons.mp ha with ha | ha
      · omega
      · exact lt_trans hk (h.1 a ha)
    · split
      · rename_i hk; subst hk
        simpa using h
      · rename_i h1 h2
        simp only [List.map_cons, List.pairwise_cons]
        refine ⟨fun a ha => ?_, ih h.2⟩
        obtain ⟨e, he, rfl⟩ := List.mem_map.mp ha
        rcases Sparse.mem_insert he with he | he
        · subst he; simp only; omega
        · exact h.1 _ (List.mem_map_of_mem he)

/-- A write keeps the canonical form. -/
theorem Sparse.put_wf (d : α) {m : Sparse α} (k : Nat) (v : α) (h : Sparse.wf d m = true) :
    Sparse.wf d (Sparse.put d m k v) = true := by
  rw [Sparse.wf_iff] at h ⊢
  unfold Sparse.put
  split
  · refine ⟨h.1.sublist ?_, fun e he => h.2 e (List.mem_of_mem_filter he)⟩
    exact List.Sublist.map _ List.filter_sublist
  · rename_i hv
    refine ⟨Sparse.insert_pairwise k v h.1, fun e he => ?_⟩
    rcases Sparse.mem_insert he with he | he
    · subst he; exact hv
    · exact h.2 e he

/-- Every entry of a written list is the written one or an old one. -/
theorem Sparse.mem_put {d : α} {m : Sparse α} {k : Nat} {v : α} {e : Nat × α}
    (h : e ∈ Sparse.put d m k v) : e = (k, v) ∨ e ∈ m := by
  unfold Sparse.put at h
  split at h
  · exact .inr (List.mem_of_mem_filter h)
  · exact Sparse.mem_insert h

theorem Sparse.wf_get {d : α} {m : Sparse α} (h : Sparse.wf d m = true) (k : Nat)
    (hd : Sparse.get d m k ≠ d) : (k, Sparse.get d m k) ∈ m := by
  induction m with
  | nil => exact absurd rfl hd
  | cons e m ih =>
    obtain ⟨k', v'⟩ := e
    by_cases hk : k' = k
    · simp [Sparse.get, hk]
    · rw [Sparse.wf_iff] at h
      simp only [Sparse.get, hk, if_false] at hd ⊢
      refine List.mem_cons_of_mem _ (ih ?_ hd)
      rw [Sparse.wf_iff]
      simp only [List.map_cons, List.pairwise_cons, List.mem_cons, forall_eq_or_imp] at h
      exact ⟨h.1.2, h.2.2⟩

/-! ### Video memory -/

theorem Memory.address_lt (b : Bank) (o : Offset) : Memory.address b o < 32768 := by
  have := o.isLt
  cases b <;> simp only [Memory.address] <;> omega

theorem Memory.address_inj {b b' : Bank} {o o' : Offset} :
    Memory.address b o = Memory.address b' o' ↔ b = b' ∧ o = o' := by
  have := o.isLt
  have := o'.isLt
  cases b <;> cases b' <;> simp only [Memory.address, BitVec.toNat_eq] <;> simp <;> omega

@[simp] theorem Memory.read_write_same (m : List Host.Cell) (b : Bank) (o : Offset) (d : Byte) :
    Memory.read (Memory.write m b o d) b o = d := by
  simp [Memory.read, Memory.write]

theorem Memory.read_write_other (m : List Host.Cell) {b b' : Bank} {o o' : Offset} (d : Byte)
    (h : ¬ (b' = b ∧ o' = o)) :
    Memory.read (Memory.write m b o d) b' o' = Memory.read m b' o' :=
  Sparse.get_put_other _ _ _ fun he => h (Memory.address_inj.mp he)

theorem Memory.write_wf {m : List Host.Cell} (b : Bank) (o : Offset) (d : Byte)
    (h : Memory.wf m = true) : Memory.wf (Memory.write m b o d) = true := by
  simp only [Memory.wf, Bool.and_eq_true, List.all_eq_true, decide_eq_true_eq] at h ⊢
  refine ⟨Sparse.put_wf _ _ _ h.1, fun e he => ?_⟩
  rcases Sparse.mem_put he with he | he
  · subst he; exact Memory.address_lt b o
  · exact h.2 e he

/-! ### The frame buffer -/

@[simp] theorem FrameBuffer.read_write_same (fb : FrameBuffer) (r j : Nat) (w : Word) :
    FrameBuffer.read (FrameBuffer.write fb r j w) r j = w := by
  simp [FrameBuffer.read, FrameBuffer.write]

theorem FrameBuffer.read_write_other (fb : FrameBuffer) {r j r' j' : Nat} (w : Word)
    (h : ¬ (r' = r ∧ j' = j)) :
    FrameBuffer.read (FrameBuffer.write fb r j w) r' j' = FrameBuffer.read fb r' j' := by
  unfold FrameBuffer.read FrameBuffer.write
  by_cases hr : r' = r
  · subst hr
    rw [Sparse.get_put_same]
    exact Sparse.get_put_other _ _ _ fun hj => h ⟨rfl, hj⟩
  · rw [Sparse.get_put_other _ _ _ hr]

theorem FrameBuffer.wf_iff (fb : FrameBuffer) :
    FrameBuffer.wf fb = true ↔
      Sparse.wf [] fb = true ∧ ∀ row ∈ fb, Sparse.wf FrameBuffer.unlisted row.2 = true := by
  simp [FrameBuffer.wf]

theorem FrameBuffer.row_wf {fb : FrameBuffer} (h : FrameBuffer.wf fb = true) (r : Nat) :
    Sparse.wf FrameBuffer.unlisted (Sparse.get [] fb r) = true := by
  rw [FrameBuffer.wf_iff] at h
  by_cases hr : Sparse.get [] fb r = []
  · rw [hr]; rfl
  · exact h.2 _ (Sparse.wf_get h.1 r hr)

theorem FrameBuffer.write_wf {fb : FrameBuffer} (r j : Nat) (w : Word)
    (h : FrameBuffer.wf fb = true) : FrameBuffer.wf (FrameBuffer.write fb r j w) = true := by
  have hrow := FrameBuffer.row_wf h r
  rw [FrameBuffer.wf_iff] at h ⊢
  refine ⟨Sparse.put_wf _ _ _ h.1, fun row he => ?_⟩
  rcases Sparse.mem_put he with he | he
  · subst he; exact Sparse.put_wf _ _ _ hrow
  · exact h.2 row he

end Sys2Proof.Machine
end

