-- ==== Sys2Proof/Tests/Slice0.lean ====
section
/-! SUPPORT. Tests: what the checks refuse, words written out from the formats of
spec/30_encoding.md R112, one-step vectors of spec/95_test_vectors.md (named V<n> there), and one
witness for the hypotheses of each obligation. -/

namespace Sys2Proof.Tests

open Sys2Proof.Machine Sys2Proof.Claims

/- One theorem at a time: the check gives every thread a large stack out of a fixed sum. -/
set_option Elab.async false

/-! ### States and observers -/

/-- Power-on with every input written: BORDER 7, FLASH 0, OSD_VISIBLE 0, LATCH 0. -/
def written : State :=
  { State.reset with
    border := some 7, flash := some false, osdVisible := some false, latch := some .bank0 }

/-- The state a command leaves; `s` itself would be a fault or a refusal, which no command is. -/
def ran (i : Instr) (s : State) : State :=
  match exec i s with
  | .next t => t
  | _ => s

/-- The state a command word leaves (R118). -/
def ranWord (w : Word) (s : State) : State :=
  match applyWord w s with
  | .next t => t
  | _ => s

/-- `written` after INIT 48, 4:3: (BLANK, 0, 0, 8944, 0, 0), OUT = [0]. -/
def ready : State := initSucceeded { written with mode := ⟨.m48, .a43⟩, allocs := [] }

/-- A command leaves what `ran` says. -/
theorem exec_ran (i : Instr) (s : State) : exec i s = .next (ran i s) := by
  obtain ⟨t, h⟩ := exec_next i s
  rw [ran, h]

theorem exec_init_written : exec (.init .m48 .a43) written = .next ready :=
  applyCommand_running (s := written) rfl _

theorem ready_admitted : ready.configs.admitted = true := by decide +kernel

/-- `ready` moved to (PHASE, LINE, COL, TARGET, CARRY, CYC). -/
def placedAt (p : Phase) (l u : Nat) (target carry cyc : Word) : State :=
  { ready with phase := p, line := l, col := u, target := target, carry := carry, cyc := cyc }

/-- (PHASE, LINE, COL, TARGET, CARRY, CYC), as spec/95_test_vectors.md writes a state. -/
structure Position where
  phase : Phase
  line : Nat
  col : Nat
  target : Word
  carry : Word
  cyc : Word
  deriving DecidableEq, Repr

def position (s : State) : Position := ⟨s.phase, s.line, s.col, s.target, s.carry, s.cyc⟩

/-- Word j of row r. -/
def wordAt (s : State) (r j : Nat) : Word := FrameBuffer.read s.fb r j

/-- MAIN_DRAW at unit 4 (cell 0) of row 24, attribute and bitmap byte of cell 0 as given. -/
def atCell (a p : Byte) (flash : Option Bool) : State :=
  { placedAt .mainDraw 24 4 14544 0 14336 with
    vram := Memory.write (Memory.write [] .bank0 0x1800 a) .bank0 0x0000 p
    flash := flash }

/-- `ready` with one changed configuration. -/
def withCfg (c : Cfg) : Configs := { referenceConfigs with m48a43 := c }

def c0 : Cfg := referenceCfg ⟨.m48, .a43⟩

/-! ### What WellFormed refuses -/

theorem test_reference_admitted : referenceConfigs.admitted = true := by decide +kernel

theorem test_W1_refuses : ¬ Cfg.W1 { c0 with hres := 321 } ∧
    (withCfg { c0 with hres := 321 }).admitted = false := by decide +kernel

theorem test_W2_refuses : ¬ Cfg.W2 { c0 with bb := 0, vres := 216 } ∧
    ¬ Cfg.W2 { c0 with vres := 241 } ∧
    (withCfg { c0 with bb := 0, vres := 216 }).admitted = false := by decide +kernel

theorem test_W3_refuses : ¬ Cfg.W3 { c0 with rwo := 1 } ∧
    (withCfg { c0 with rwo := 1 }).admitted = false := by decide +kernel

theorem test_W4_refuses : ¬ Cfg.W4 { c0 with cpl := 159 } ∧ ¬ Cfg.W4 { c0 with cpl := 0 } ∧
    (withCfg { c0 with cpl := 159 }).admitted = false := by decide +kernel

theorem test_W5_refuses : ¬ Cfg.W5 { c0 with firstThresh := 0 } ∧
    ¬ Cfg.W5 { c0 with cpf := 62703 } ∧ ¬ Cfg.W5 { c0 with cpf := 4294967296 } ∧
    (withCfg { c0 with cpf := 62703 }).admitted = false := by decide +kernel

theorem test_W6_refuses : ¬ Cfg.W6 { c0 with screenCells := 33 } ∧
    ¬ Cfg.W6 { c0 with firstHalf := 129 } ∧
    (withCfg { c0 with firstHalf := 129 }).admitted = false := by decide +kernel

theorem test_W7_refuses : ¬ Cfg.W7 { c0 with attrBase := 0x3D01 } ∧
    (withCfg { c0 with attrBase := 0x3D01 }).admitted = false ∧
    (withCfg { c0 with attrBase := 0x3D00 }).admitted = true := by decide +kernel

theorem test_W8_refuses : ¬ Cfg.W8 { c0 with osdRowHi := 99 } ∧
    ¬ Cfg.W8 { c0 with osdRowHi := 241 } ∧ ¬ Cfg.W8 { c0 with osdUnitHi := 41 } ∧
    (withCfg { c0 with osdUnitHi := 41 }).admitted = false := by decide +kernel

/-- A step under a refused configuration is the refusal of R312. -/
theorem test_step_refuses_configuration :
    step { State.reset with configs := withCfg { c0 with rwo := 1 } } =
      .refused .configurationNotAdmitted :=
  if_neg (by decide +kernel)

/-- Each operand range of R119, just beyond its end, and a wrong operand count. -/
theorem test_assembly_errors :
    AsmLine.wf ⟨.init, [.number 47, .ratio 4 3]⟩ = false ∧
    AsmLine.wf ⟨.init, [.number 48, .ratio 16 10]⟩ = false ∧
    AsmLine.wf ⟨.reset, [.number 2, .number 0]⟩ = false ∧
    AsmLine.wf ⟨.setup, [.number 48, .number 2]⟩ = false ∧
    AsmLine.wf ⟨.advance, [.number 16777216]⟩ = false ∧
    AsmLine.wf ⟨.sample, [.number 16777216]⟩ = false ∧
    AsmLine.wf ⟨.setCycles, [.number 16777216]⟩ = false ∧
    AsmLine.wf ⟨.setBorder, [.number 8]⟩ = false ∧
    AsmLine.wf ⟨.setOverlay, [.number 2]⟩ = false ∧
    AsmLine.wf ⟨.setFlash, [.number 2]⟩ = false ∧
    AsmLine.wf ⟨.setLatch, [.number 2]⟩ = false ∧
    AsmLine.wf ⟨.poke, [.number 2, .number 0, .number 0]⟩ = false ∧
    AsmLine.wf ⟨.poke, [.number 0, .number 16384, .number 0]⟩ = false ∧
    AsmLine.wf ⟨.poke, [.number 0, .number 0, .number 256]⟩ = false ∧
    AsmLine.wf ⟨.flush, [.number 0]⟩ = false ∧
    AsmLine.wf ⟨.frameWrap, [.number 0]⟩ = false ∧
    AsmLine.wf ⟨.endframe, [.number 0]⟩ = false ∧
    AsmLine.wf ⟨.line, [.number 0]⟩ = false := by decide

/-- SETUP and a POKE as text (R119, R120; words of programs P1 and P3). -/
theorem test_assemble_text :
    assembleText 224 ["SETUP 48, 4:3 ; inputs first".toList, "".toList,
        "POKE 0, 0x1800, 0x38".toList, "LINE".toList, "ENDFRAME".toList] =
      some [0x60000000, 0x80000000, 0x70000000, 0x90000000, 0x10000000, 0xC0180038,
        0x300000E0, 0x40000000, 0xB0000000] ∧
    assembleText 224 ["SET_BORDER 8".toList] = none := by decide +kernel

/-! ### Decoding words written out from R112, and V90 to V102 -/

theorem test_decode_mode_words :
    decode 0b00010000000000000000000000000001 = .ok (.init .m48 .a169) ∧
    decode 0b00010000000000000000000000000010 = .ok (.init .m128 .a43) ∧
    decode 0b00100000000000000000000000000001 = .ok (.reset .m48 .a169) ∧
    decode 0x10000003 = .ok (.init .m128 .a169) ∧
    decode 0x1000000C = .error .reservedBits := ⟨rfl, rfl, rfl, rfl, rfl⟩

theorem test_decode_count_words :
    decode 0b00110000000000000000000000000101 = .ok (.advance 5) ∧
    decode 0b01010000100000000000000000000001 = .ok (.sample 8388609) ∧
    decode 0b10100000000000000010001011101111 = .ok (.setCycles 8943) ∧
    decode 0x31000000 = .error .reservedBits ∧
    decode 0x50003800 = .ok (.sample 14336) := ⟨rfl, rfl, rfl, rfl, rfl⟩

theorem test_decode_operandless_words :
    decode 0b01000000000000000000000000000000 = .ok .flush ∧
    decode 0b10110000000000000000000000000000 = .ok .frameWrap ∧
    decode 0x40000001 = .error .reservedBits ∧ decode 0xB0000001 = .error .reservedBits :=
  ⟨rfl, rfl, rfl, rfl⟩

theorem test_decode_setter_words :
    decode 0b01100000000000000000000000000110 = .ok (.setBorder 6) ∧
    decode 0b01110000000000000000000000000001 = .ok (.setOverlay true) ∧
    decode 0b10000000000000000000000000000001 = .ok (.setFlash true) ∧
    decode 0b10000000000000000000000000000000 = .ok (.setFlash false) ∧
    decode 0b10010000000000000000000000000001 = .ok (.setLatch .bank1) ∧
    decode 0x60000008 = .error .reservedBits ∧ decode 0x70000002 = .error .reservedBits :=
  ⟨rfl, rfl, rfl, rfl, rfl, rfl, rfl⟩

theorem test_decode_poke_words :
    decode 0b11000000000110000000000100111000 = .ok (.poke .bank0 0x1801 0x38) ∧
    decode 0b11000000010000000000000011110000 = .ok (.poke .bank1 0x0000 0xF0) ∧
    decode 0xC07FFFFF = .ok (.poke .bank1 0x3FFF 0xFF) ∧
    decode 0xC0800000 = .error .reservedBits := ⟨rfl, rfl, rfl, rfl⟩

theorem test_decode_reserved_opcodes :
    decode 0x00000000 = .error .reservedOpcode ∧ decode 0xD0000000 = .error .reservedOpcode ∧
    decode 0xE0000000 = .error .reservedOpcode ∧ decode 0xFFFFFFFF = .error .reservedOpcode :=
  ⟨rfl, rfl, rfl, rfl⟩

/-- The host's numbering: bits at and above nbits are 0. -/
theorem test_decodeTableWord :
    decodeTableWord 32 0xC0180038 = some (.poke .bank0 0x1800 0x38) ∧
    decodeTableWord 32 0x1C0180038 = some (.poke .bank0 0x1800 0x38) ∧
    decodeTableWord 32 0x31000000 = none := by decide

/-- The code a caller sees for each status of R44, R45 and R301. -/
theorem test_codes :
    modeCode ⟨.m128, .a43⟩ = 2 ∧ modeCode ⟨.m48, .a169⟩ = 1 ∧ vstatCode .failed = 2 ∧
    phaseCode .botDraw = 6 ∧ faultCode .boundsViolation = 6 ∧
    faultCode (.unwrittenInput .flash) = 3 := by decide

/-! ### One step of each command -/

/-- V80: INIT 48, 4:3 as the first command, through `step`. -/
theorem test_init :
    ∃ t, step (written.withFetchWord 32 0x10000000) = .next t ∧
      position t = ⟨.blank, 0, 0, 8944, 0, 0⟩ ∧ t.vstat = .ready ∧ t.out = [0] ∧
      t.fault = none := by
  refine ⟨ready, ?_, by decide +kernel⟩
  rw [step_of_admitted (s := written.withFetchWord 32 0x10000000) ready_admitted]
  exact exec_init_written

/-- V82: a failed allocation; a following ADVANCE 0 raises NotReady. -/
theorem test_init_failed :
    let t := ran (.init .m48 .a43) { written with allocs := [false] }
    t.vstat = .failed ∧ t.out = [1] ∧ t.border = some 7 ∧
      (ran (.advance 0) t).fault = some .notReady := by decide +kernel

/-- V81: RESET 128, 16:9, from a READY machine. -/
theorem test_reset :
    let t := ranWord 0x20000003 ready
    t.mode = ⟨.m128, .a169⟩ ∧ t.target = 13428 ∧ t.out = [0, 0] ∧ t.bcache.length = 200 := by
  decide +kernel

/-- V40, V50, V45, V54 and V51 to V53: a frame start and one missed, a crossing that draws its
overshoot, a draw body, and the ends of the three visible phases. -/
theorem test_advance_position :
    position (ran (.advance 100) ready) = ⟨.topWait, 0, 0, 8944, 0, 100⟩ ∧
    position (ran (.advance 8944) ready) = ⟨.blank, 0, 0, 8944, 0, 8944⟩ ∧
    position (ran (.advance 61) (placedAt .topWait 0 0 8944 0 8900)) =
      ⟨.topDraw, 0, 4, 9168, 1, 8961⟩ ∧
    position (ran (.advance 7) (placedAt .mainDraw 50 10 20368 2 20186)) =
      ⟨.mainDraw, 50, 12, 20368, 1, 20193⟩ ∧
    position (ran (.advance 16) (placedAt .topDraw 23 36 14320 3 14243)) =
      ⟨.mainWait, 24, 0, 14320, 3, 14259⟩ ∧
    position (ran (.advance 4) (placedAt .mainDraw 215 39 57328 0 57264)) =
      ⟨.botWait, 216, 0, 57328, 0, 57268⟩ ∧
    position (ran (.advance 4) (placedAt .botDraw 239 39 62704 0 62636)) =
      ⟨.blank, 0, 0, 62704, 0, 62640⟩ := by decide +kernel

/-- V56, V60, V62, V64, V112 and V113: the words of a border unit, of a flashing cell and of one
that does not read FLASH, a skipped unit, and unwritten inputs with the writes before them kept. -/
theorem test_advance_units :
    (let t := ran (.advance 61) (placedAt .topWait 0 0 8944 0 8900)
     wordAt t 0 7 = 0xEAEAEAEA ∧ wordAt t 0 8 = 0 ∧ t.bcache[0]? = some 7) ∧
    (let t := ran (.advance 4) (atCell 0xB8 0x0F (some true))
     wordAt t 24 8 = 0xC0C0C0C0 ∧ wordAt t 24 9 = 0xEAEAEAEA) ∧
    (let t := ran (.advance 4) (atCell 0x38 0x0F none)
     wordAt t 24 8 = 0xEAEAEAEA ∧ wordAt t 24 9 = 0xC0C0C0C0 ∧ t.fault = none) ∧
    (let t := ran (.advance 4)
      { placedAt .mainDraw 100 10 31568 0 31384 with osdActive := true, fb := [(100, [(20, 5)])] }
     t.col = 11 ∧ wordAt t 100 20 = 5 ∧ wordAt t 100 21 = 0) ∧
    (let t := ran (.advance 8944) { placedAt .topWait 0 0 8944 0 0 with osdVisible := none }
     t.fault = some (.unwrittenInput .osdVisible) ∧ t.cyc = 8944 ∧ t.phase = .topWait) ∧
    (let t := ran (.advance 8948) { placedAt .topWait 0 0 8944 0 0 with border := none }
     t.fault = some (.unwrittenInput .border) ∧ t.phase = .topDraw ∧ t.col = 0) := by
  decide +kernel

/-- V71 and V70 shortened: FLUSH at CPF does nothing; one pass from BLANK adds CPL. -/
theorem test_flush :
    position (ran .flush (placedAt .blank 0 0 8944 0 69888)) = ⟨.blank, 0, 0, 8944, 0, 69888⟩ ∧
    position (ran .flush (placedAt .blank 0 0 8944 0 69744)) = ⟨.blank, 0, 0, 8944, 0, 69968⟩ := by
  decide +kernel

/-- V39c and V39l: an attribute byte in M48, and the +1 offset of M128. -/
theorem test_sample :
    (ran (.sample 14459) { ready with vram := [(0x181F, 0x45)] }).out = [0, 0x45] ∧
    (ran (.sample 14363)
      { ready with mode := ⟨.m128, .a43⟩, vram := [(0x0000, 0x99)] }).out = [0, 0x99] := by
  decide +kernel

/-- V39r and V39s: SAMPLE before INIT, and with LATCH never written. -/
theorem test_sample_faults :
    (ran (.sample 14336) written).fault = some .notReady ∧
    (ran (.sample 14336) { ready with latch := none }).fault =
      some (.unwrittenInput .latch) ∧
    (ran (.sample 0) { ready with latch := none }).out = [0, 0xFF] := by decide +kernel

/-- V84, V85 and the examples of R266, R267. -/
theorem test_setters :
    (ranWord 0x60000002 State.reset).border = some 2 ∧
    (ranWord 0x70000001 { ready with phase := .mainDraw }).osdVisible = some true ∧
    (ranWord 0x70000001 { ready with phase := .mainDraw }).osdActive = false ∧
    (ranWord 0x80000001 State.reset).flash = some true ∧
    (ranWord 0x90000001 State.reset).latch = some .bank1 := by decide +kernel

/-- V86, V87 and V88. -/
theorem test_counter_moves :
    position (ranWord 0xA00022EF (placedAt .topWait 3 0 9616 1 9000)) =
      ⟨.topWait, 3, 0, 9616, 1, 8943⟩ ∧
    (ranWord 0xB0000000 (placedAt .blank 0 0 62704 1 69889)).cyc = 1 ∧
    (ranWord 0xB0000000 (placedAt .blank 0 0 62704 1 69887)).fault = some .wrapUnderflow := by
  decide +kernel

/-- V89: the last byte of bank 1, and writing zero takes the entry away. -/
theorem test_poke :
    (ranWord 0xC07FFFFF State.reset).vram = [(32767, 0xFF)] ∧
    (ran (.poke .bank1 0x3FFF 0) { State.reset with vram := [(32767, 0xFF)] }).vram = [] := by
  decide +kernel

/-- V110, V115 and V117: an illegal word, and nothing runs after it. -/
theorem test_illegal_words :
    (ranWord 0x00000000 State.reset).fault = some .illegalCommand ∧
    (ranWord 0x10000000 (ranWord 0x00000000 State.reset)).vstat = .uninit ∧
    (ranWord 0x3F000000 ready).fault = some .illegalCommand ∧
    (ranWord 0x3F000000 State.reset).fault = some .illegalCommand := by decide +kernel

/-- V10, V12, V15 and V20 to V27: entries of the tables INIT builds, under the test palette. -/
theorem test_tables :
    aluAt ready.alu 0x0 0x38 = 0xEAEAEAEA ∧ aluAt ready.alu 0x8 0x38 = 0xEAEAEAC0 ∧
    aluAt ready.alu 0x5 0x47 = 0xFFC0FFC0 ∧
    ready.bmpOff[63]? = some 0x07E0 ∧ ready.bmpOff[191]? = some 0x17E0 ∧
    ready.attrOff[64]? = some 0x1900 ∧ ready.attrOff[191]? = some 0x1AE0 ∧
    borderWordAt ready.borderWord 2 = 0xC2C2C2C2 := by decide +kernel

/-! ### Witnesses: states that meet the hypotheses of the obligations -/

theorem ready_drawable : ready.configs.Drawable := by decide +kernel

/-- A draw position, a wait position and a blank one at which the raster machine can draw. -/
theorem witness_canDraw_draw : CanDraw (placedAt .mainDraw 24 4 14544 3 14339) := by
  refine ⟨by decide +kernel, by decide +kernel, ready_admitted, ready_drawable, ?_⟩
  unfold State.PositionOk
  decide +kernel

theorem witness_canDraw_wait : CanDraw (placedAt .topWait 0 0 8944 0 8900) := by
  refine ⟨by decide +kernel, by decide +kernel, ready_admitted, ready_drawable, ?_⟩
  unfold State.PositionOk
  decide +kernel

theorem witness_canDraw_blank : CanDraw (placedAt .blank 0 0 62704 0 62800) := by
  refine ⟨by decide +kernel, by decide +kernel, ready_admitted, ready_drawable, ?_⟩
  unfold State.PositionOk
  decide +kernel

/-- TablesOk and StorageOk hold of a READY machine, not only of one with no tables. -/
theorem witness_tablesOk : ready.vstat = .ready ∧ ready.TablesOk ∧ ready.StorageOk := by
  refine ⟨rfl, fun _ => ⟨rfl, rfl, rfl, rfl, rfl, by decide +kernel, ?_⟩, ?_, ?_⟩ <;>
    decide +kernel

theorem witness_DecodedWordEncodesBack : decode 0x10000003 = .ok (.init .m128 .a169) := rfl

theorem witness_ReservedOpcodeRaisesIllegalCommand :
    (opField 0x00000000 = 0x0 ∧ opField 0xD0000000 = 0xD ∧ opField 0xE0000000 = 0xE ∧
      opField 0xFFFFFFFF = 0xF) ∧
    let s := { ready with inputs := [.command 0xD0000000] }
    s.configs.admitted = true ∧ s.fault = none ∧ s.inputs = .command 0xD0000000 :: [] :=
  ⟨⟨rfl, rfl, rfl, rfl⟩, ready_admitted, rfl, rfl⟩

theorem witness_ReservedBitRaisesIllegalCommand :
    let row : OpcodeRow := ⟨0x3, 0xFF000000, 0x30000000⟩
    row ∈ opcodeTable ∧ opField 0x31000000 = row.op ∧ 0x31000000 &&& row.mask ≠ row.pattern ∧
      { ready with inputs := [.command 0x31000000] }.inputs = .command 0x31000000 :: [] := by
  decide +kernel

theorem witness_StepRunsTheDecodedCommand :
    { ready with inputs := [.command 0x300000E0] }.inputs = .command 0x300000E0 :: [] ∧
    decode 0x300000E0 = .ok (.advance 224) := ⟨rfl, rfl⟩

theorem witness_PowerOnWaitsForACommand :
    State.reset.configs.admitted = true ∧ State.reset.inputs = [] := by decide +kernel

theorem witness_OnlyAdmittedConfigurationsRun :
    (withCfg { c0 with rwo := 1 }).admitted = false ∧
    Cfg.W8 { c0 with osdRowLo := 240, osdRowHi := 240, osdUnitLo := 0, osdUnitHi := 40 } := by
  decide +kernel

theorem witness_FaultIsFinal :
    { ready with fault := some .notReady }.fault = some .notReady ∧
      { ready with fault := some .notReady }.configs.admitted = true := ⟨rfl, ready_admitted⟩

/-- NotReady; CycleOverflow at a sum of exactly 2^32 (V116); WrapUnderflow at CPF − 1 (V88). -/
theorem witness_EntryChecksRaiseInOrder :
    (written.fault = none ∧ written.vstat ≠ .ready) ∧
    (let s := placedAt .blank 0 0 8944 0 0xFFFFFF00
     s.fault = none ∧ s.vstat = .ready ∧ cycAfter s 256 = 2 ^ 32) ∧
    (let s := placedAt .blank 0 0 8944 0 69887
     s.fault = none ∧ s.vstat = .ready ∧ s.cyc.toNat + 1 = s.cfg.cpf) := by decide +kernel

/-- The crossing clause at CYC + n = TARGET; the unit clauses at the first and last cell and at a
border unit beside them. -/
theorem witness_UnwrittenInputStopsAdvance :
    (let s := { placedAt .topWait 0 0 8944 0 0 with osdVisible := none }
     s.Running ∧ isWait s.phase = true ∧ NoOverflow s 8944 ∧ cycAfter s 8944 = s.target.toNat) ∧
    (let s := { placedAt .mainDraw 24 3 14544 0 14332 with border := none }
     s.Running ∧ isDraw s.phase = true ∧ NoOverflow s 4 ∧ 4 ≤ 4 + s.carry.toNat ∧
      ¬ Skipped s.cfg s.osdActive s.phase s.line s.col ∧ ¬ ShowsCell s.cfg s.phase s.col) ∧
    (let s := { placedAt .mainDraw 24 35 14544 3 14460 with latch := none }
     s.Running ∧ isDraw s.phase = true ∧ NoOverflow s 1 ∧ 4 ≤ 1 + s.carry.toNat ∧
      ¬ Skipped s.cfg s.osdActive s.phase s.line s.col ∧ ShowsCell s.cfg s.phase s.col) ∧
    (let s := atCell 0x80 0x00 none
     s.Running ∧ ¬ Skipped s.cfg s.osdActive s.phase s.line s.col ∧
      ShowsCell s.cfg s.phase s.col ∧ s.latch = some .bank0 ∧ s.flash = none ∧
      (Memory.read s.vram .bank0
        (attrAt s (s.line - s.cfg.tb) (s.col - s.cfg.lb))).getLsbD 7 = true) := by
  decide +kernel

/-- The clause on every unit: LATCH unwritten at unit 4 of a row after border unit 3 is painted, and
BORDER unwritten at unit 0 of a crossing (V113, program P6). -/
theorem witness_unwritten_after_painted_units :
    (let s := { placedAt .mainDraw 24 3 14544 0 14332 with latch := none }
     s.Running ∧ s.configs.admitted = true ∧ s.configs.Drawable ∧ s.PositionOk ∧
      NoOverflow s 8 ∧ isDraw s.phase = true ∧ 4 < unitsEnd s 8 ∧
      blockedOn s s.osdActive s.phase s.line 3 = none ∧
      blockedOn s s.osdActive s.phase s.line 4 = some .latch) ∧
    (let s := { placedAt .topWait 0 0 8944 0 0 with border := none }
     s.Running ∧ s.configs.admitted = true ∧ s.configs.Drawable ∧ s.PositionOk ∧
      NoOverflow s 8948 ∧ isWait s.phase = true ∧ s.osdVisible = some false ∧
      s.target.toNat ≤ cycAfter s 8948 ∧ 0 < unitsEnd s 8948 ∧
      blockedOn s false (drawOf s.phase) s.line 0 = some .border) := by
  refine ⟨⟨by decide +kernel, ready_admitted, ready_drawable, ?_, by decide +kernel⟩,
    ⟨by decide +kernel, ready_admitted, ready_drawable, ?_, by decide +kernel⟩⟩ <;>
    (unfold State.PositionOk
     decide +kernel)

theorem witness_SuccessfulInitBuildsEverything :
    (State.reset.fault = none ∧ State.reset.allocs.headD true = true) ∧
    { State.reset with allocs := [true, false] }.allocs.headD true = true := ⟨⟨rfl, rfl⟩, rfl⟩

theorem witness_FailedInitLeavesNothingReadable :
    { ready with allocs := [false] }.fault = none ∧
    { ready with allocs := [false] }.allocs.headD true = false := ⟨rfl, rfl⟩

theorem witness_ResetIsInit :
    written.fault = none ∧ written.configs = referenceConfigs ∧ written.allocs.headD true = true :=
  ⟨rfl, rfl, rfl⟩

/-- The hypotheses of the table statements: an INIT that succeeded. -/
theorem witness_afterInit : AfterInit .m48 .a43 written ready ∧
    written.configs.admitted = true ∧ 0 < ready.cfg.screenCells ∧ 0 < ready.cfg.screenLines :=
  ⟨⟨rfl, exec_init_written, rfl⟩, ready_admitted, by decide +kernel,
    by decide +kernel⟩

/-- Each disjunct at its boundary: a negative adjusted count (FB_OFFSET −1, count 0), the lines
just outside the band, and the phase FIRST_HALF. -/
theorem witness_SampleIsIdleOutsideTheFetch :
    ready.Running ∧
    adjusted { ready with configs := withCfg { c0 with fbOffset := -1 } } 0 = -1 ∧
    adjusted ready 14335 / ready.cfg.cpl = 63 ∧ adjusted ready 57344 / ready.cfg.cpl = 256 ∧
    ready.cfg.fbLine0 = 64 ∧ ready.cfg.fbLine0 + ready.cfg.screenLines = 256 ∧
    adjusted ready 14464 % ready.cfg.cpl = ready.cfg.firstHalf := by decide +kernel

/-- Slots 0 to 4 of the first and the last graphics line (V34 to V38, V39h, V39i). -/
theorem witness_SampleReadsTheFetchedByte :
    let fits (n : Count) (line phase g : Nat) : Prop :=
      0 ≤ adjusted ready n ∧ line = (adjusted ready n).toNat / ready.cfg.cpl ∧
        phase = (adjusted ready n).toNat % ready.cfg.cpl ∧ line = ready.cfg.fbLine0 + g ∧
        g < ready.cfg.screenLines ∧ phase < ready.cfg.firstHalf
    ready.Running ∧ ready.latch = some .bank0 ∧ { ready with latch := none }.Running ∧
    fits 14336 64 0 0 ∧ fits 14337 64 1 0 ∧ fits 14338 64 2 0 ∧ fits 14339 64 3 0 ∧
    fits 14340 64 4 0 ∧ fits 14463 64 127 0 ∧ fits 57120 255 0 191 ∧ fits 57121 255 1 191 := by
  decide +kernel

theorem witness_SampleCornerCases :
    ready.Running ∧ ready.configs = referenceConfigs ∧ ready.mode.variant = .m48 ∧
      ready.TablesOk ∧ ready.latch = some .bank0 :=
  ⟨by decide +kernel, rfl, rfl, witness_tablesOk.2.1, rfl⟩

theorem witness_SampleCommutesWithMainCommands :
    let s := placedAt .topWait 0 0 8944 0 8900
    SampleIndependent (.advance 61) ∧ exec (.advance 61) s = .next (ran (.advance 61) s) ∧
      (ran (.advance 61) s).fault = none ∧
      exec (.sample 14336) s = .next (ran (.sample 14336) s) ∧
      (ran (.sample 14336) s).fault = none :=
  ⟨trivial, exec_ran _ _, by decide +kernel, exec_ran _ _, by decide +kernel⟩

/-- Two SAMPLEs inside one INIT. -/
theorem witness_InterruptSamplesLandAsTheSpecSays :
    { ready with inputs := [.interruptSample 14336] }.inputs = .interruptSample 14336 :: [] ∧
    { ready with inputs := [.preemptingSample 5, .preemptingSample 6, .command 0x10000000] }.inputs =
      .preemptingSample 5 :: [.preemptingSample 6, .command 0x10000000] ∧
    RebuildFollows [.preemptingSample 6, .command 0x10000000] :=
  ⟨rfl, rfl, [6], 0x10000000, [], .init .m48 .a43, rfl, rfl, .inl ⟨_, _, rfl⟩⟩

/-- No rebuild follows where the list ends, at an overlay store, at an illegal word, at FLUSH. -/
theorem witness_no_rebuild_follows :
    ¬ RebuildFollows [] ∧ ¬ RebuildFollows [.overlayStore 0 0 5, .command 0x10000000] ∧
    ¬ RebuildFollows [.preemptingSample 6, .command 0x00000000] ∧
    ¬ RebuildFollows [.command 0x40000000] := by
  refine ⟨?_, ?_, ?_, ?_⟩ <;> rintro ⟨ns, w, more, i, h, hd, hi⟩
  · cases ns <;> cases h
  · cases ns <;> cases h
  · rcases ns with _ | ⟨n, _ | ⟨m, ns⟩⟩ <;> cases h
    cases hd
  · cases ns <;> cases h
    obtain rfl : Instr.flush = i := Except.ok.inj hd
    rcases hi with ⟨_, _, h⟩ | ⟨_, _, h⟩ <;> cases h

/-- The two clauses on either side of FIRST_THRESH. -/
theorem witness_AdvanceInBlankStartsAFrame :
    ready.Running ∧ ready.phase = .blank ∧ NoOverflow ready 8944 ∧
      cycAfter ready 8943 < ready.cfg.firstThresh ∧
      ready.cfg.firstThresh ≤ cycAfter ready 8944 := by decide +kernel

theorem witness_AdvanceBeforeTheBoundaryOnlyCounts :
    let s := placedAt .topWait 0 0 8944 0 100
    s.Running ∧ isWait s.phase = true ∧ NoOverflow s 8843 ∧ cycAfter s 8843 < s.target.toNat := by
  decide +kernel

/-- The crossing at TARGET itself, and the overshoots 159 and 160 on either side of a whole row. -/
theorem witness_CrossingDrawsTheOvershoot :
    let s := placedAt .topWait 0 0 8944 0 8900
    CanDraw s ∧ isWait s.phase = true ∧ NoOverflow s 204 ∧ cycAfter s 44 = s.target.toNat ∧
      (cycAfter s 203 - s.target.toNat) / 4 < s.cfg.units ∧
      s.cfg.units ≤ (cycAfter s 204 - s.target.toNat) / 4 :=
  ⟨witness_canDraw_wait, by decide +kernel, by decide +kernel, by decide +kernel,
    by decide +kernel, by decide +kernel⟩

/-- Budgets on either side of the row's end: 35 and 36 units from unit 4. -/
theorem witness_DrawBodySpendsTheBudget :
    let s := placedAt .mainDraw 24 4 14544 3 14339
    CanDraw s ∧ isDraw s.phase = true ∧ NoOverflow s 141 ∧
      s.col + (140 + s.carry.toNat) / 4 < s.cfg.units ∧
      s.cfg.units ≤ s.col + (141 + s.carry.toNat) / 4 :=
  ⟨witness_canDraw_draw, by decide +kernel, by decide +kernel, by decide +kernel,
    by decide +kernel⟩

theorem witness_BorderUnitPaintsTwoWords :
    let s := placedAt .botDraw 239 39 62704 0 62636
    s.fault = none ∧ s.border = some 7 ∧ ¬ Skipped s.cfg s.osdActive s.phase s.line s.col ∧
      ¬ ShowsCell s.cfg s.phase s.col ∧ s.line < s.cfg.vres ∧
      s.cfg.rwo + 2 * s.col + 1 < s.cfg.wpr := by decide +kernel

/-- With the attribute's bit 7 set and FLASH 1, and with it clear and FLASH never written. -/
theorem witness_ScreenUnitPaintsItsCell :
    let fits (s : State) : Prop :=
      s.fault = none ∧ s.latch = some .bank0 ∧
        ¬ Skipped s.cfg s.osdActive s.phase s.line s.col ∧ ShowsCell s.cfg s.phase s.col ∧
        s.line < s.cfg.vres ∧ s.cfg.rwo + 2 * s.col + 1 < s.cfg.wpr
    let attrOf (s : State) : Byte :=
      Memory.read s.vram .bank0 (attrAt s (s.line - s.cfg.tb) (s.col - s.cfg.lb))
    fits (atCell 0xB8 0x0F (some true)) ∧ fits (atCell 0x38 0x0F none) ∧
      ((attrOf (atCell 0xB8 0x0F (some true))).getLsbD 7 = true →
        (atCell 0xB8 0x0F (some true)).flash = some true) ∧
      (attrOf (atCell 0x38 0x0F none)).getLsbD 7 = false := by
  decide +kernel

theorem witness_SkippedUnitOnlyCounts :
    let s := { placedAt .mainDraw 139 29 40304 0 40196 with osdActive := true }
    s.fault = none ∧ Skipped s.cfg s.osdActive s.phase s.line s.col ∧
      s.col + 1 ≠ s.cfg.units := by decide +kernel

theorem witness_AdvanceWritesOnlyItsUnits :
    let s := placedAt .topWait 0 0 8944 0 8900
    s.configs.Drawable ∧ s.PositionOk ∧ exec (.advance 61) s = .next (ran (.advance 61) s) ∧
      unitsEnd s 61 = 4 :=
  ⟨ready_drawable, witness_canDraw_wait.2.2.2.2, exec_ran _ _, by decide +kernel⟩

/-- A skipped unit and a painted one among the units due. -/
theorem witness_AdvancePaintsEachUnitDue :
    let s := placedAt .mainDraw 24 4 14544 3 14339
    CanDraw s ∧ NoOverflow s 9 ∧ s.border = some 7 ∧ s.latch = some .bank0 ∧
      s.flash = some false ∧ s.osdVisible = some false ∧
      (isWait s.phase = true → s.target.toNat ≤ cycAfter s 9) ∧ s.phase ≠ .blank ∧
      s.col ≤ 6 ∧ 6 < unitsEnd s 9 ∧ (unitWords s false .mainDraw 7 .bank0 false 24 6).isSome ∧
      unitWords s true .mainDraw 7 .bank0 false 100 10 = none :=
  ⟨witness_canDraw_draw, by decide +kernel, rfl, rfl, rfl, rfl, by decide +kernel,
    by decide +kernel, by decide +kernel, by decide +kernel, by decide +kernel,
    by decide +kernel⟩

theorem witness_PhaseMovesOnlyAsListed :
    exec (.advance 100) ready = .next (ran (.advance 100) ready) ∧
    exec (.poke .bank0 0 1) ready = .next (ran (.poke .bank0 0 1) ready) ∧
    ¬ IsModeCommand (.poke .bank0 0 1) := ⟨exec_ran _ _, exec_ran _ _, id⟩

/-- OSD_ACTIVE changes at a crossing, from 0 to 1. -/
theorem witness_VariantIsLatchedAtCrossings :
    let s := { placedAt .topWait 0 0 8944 0 8900 with osdVisible := some true }
    exec (.advance 44) s = .next (ran (.advance 44) s) ∧
      (ran (.advance 44) s).osdActive ≠ s.osdActive ∧ s.Running ∧ isWait s.phase = true ∧
      NoOverflow s 44 ∧ s.target.toNat ≤ cycAfter s 44 :=
  ⟨exec_ran _ _, by decide +kernel, by decide +kernel, by decide +kernel, by decide +kernel,
    by decide +kernel⟩

theorem witness_CyclesAreConserved :
    ∃ t, runCommands (([100, 8843, 61] : List Count).map .advance) ready = .next t ∧
      t.fault = none := ⟨_, rfl, by decide +kernel⟩

/-- The longest operand the on-time condition allows is CPL − 4·UNITS = 64. -/
theorem witness_OnTimePositionIsAFunctionOfCyc :
    let s := placedAt .topWait 0 0 8944 0 8900
    CanDraw s ∧ s.phase = .topWait ∧ s.line = 0 ∧ s.cyc.toNat < s.cfg.firstThresh ∧
      (∀ n ∈ ([64, 64, 0] : List Count), n.toNat + 4 * s.cfg.units ≤ s.cfg.cpl) ∧
      s.cyc.toNat + (([64, 64, 0] : List Count).map BitVec.toNat).sum < 2 ^ 32 :=
  ⟨witness_canDraw_wait, rfl, rfl, by decide +kernel,
    fun n hn => by fin_cases hn <;> decide +kernel, by decide +kernel⟩

/-- Each clause of ADVANCE 0: BLANK on either side of FIRST_THRESH, a wait sub-state on either side
of TARGET, an overshoot of a whole row, a draw sub-state. -/
theorem witness_AdvanceZeroCatchesUp :
    (CanDraw (placedAt .blank 0 0 62704 0 62800) ∧
      ¬ (62800 : Nat) < (placedAt .blank 0 0 62704 0 62800).cfg.firstThresh ∧
      CanDraw ready ∧ ready.cyc.toNat < ready.cfg.firstThresh) ∧
    (CanDraw (placedAt .topWait 0 0 8944 0 8944) ∧ CanDraw (placedAt .topWait 0 0 8944 0 8943) ∧
      CanDraw (placedAt .topWait 0 0 8944 0 9104)) ∧
    CanDraw (placedAt .mainDraw 24 4 14544 3 14339) := by
  refine ⟨⟨witness_canDraw_blank, by decide +kernel, ?_, by decide +kernel⟩,
    ⟨?_, ?_, ?_⟩, witness_canDraw_draw⟩ <;>
    (refine ⟨by decide +kernel, by decide +kernel, ready_admitted, ready_drawable, ?_⟩
     unfold State.PositionOk
     decide +kernel)

theorem witness_FlushRepeatsAdvance :
    let s := placedAt .blank 0 0 62704 0 62800
    s.Running ∧ s.configs.admitted = true ∧ s.cyc.toNat < s.cfg.cpf ∧ s.cfg.cpl < 2 ^ 24 ∧
      exec (.advance (BitVec.ofNat 24 s.cfg.cpl)) s =
        .next (ran (.advance (BitVec.ofNat 24 s.cfg.cpl)) s) :=
  ⟨by decide +kernel, ready_admitted, by decide +kernel, by decide +kernel, exec_ran _ _⟩

theorem witness_FlushIsIdempotent :
    let s := placedAt .blank 0 0 62704 0 69888
    s.Running ∧ s.cfg.cpf ≤ s.cyc.toNat ∧ exec .flush s = .next (ran .flush s) :=
  ⟨by decide +kernel, by decide +kernel, exec_ran _ _⟩

theorem witness_FlushReachesTheFrameEnd :
    CanDraw (placedAt .topWait 0 0 8944 0 8900) ∧ ready.cfg.cpf + ready.cfg.cpl ≤ 2 ^ 32 :=
  ⟨witness_canDraw_wait, by decide +kernel⟩

/-- A frame of three rows of one unit: boundaries 10, 18 and 26, CPF 40. -/
def tiny : Cfg :=
  { c0 with
    cpl := 8, cpf := 40, hres := 8, vres := 3, screenLines := 1, screenCells := 0, tb := 1, bb := 1
    lb := 1, rb := 0, firstThresh := 10, firstHalf := 0
    osdRowLo := 2, osdRowHi := 3, osdUnitLo := 0, osdUnitHi := 1 }

/-- A position in the tiny frame. -/
def inTiny (p : Phase) (l u : Nat) (target carry cyc : Word) : State :=
  { initSucceeded { written with configs := ⟨tiny, tiny, tiny, tiny⟩ } with
    phase := p, line := l, col := u, target := target, carry := carry, cyc := cyc }

theorem inTiny_admitted : (⟨tiny, tiny, tiny, tiny⟩ : Configs).admitted = true := by decide +kernel

theorem inTiny_drawable : (⟨tiny, tiny, tiny, tiny⟩ : Configs).Drawable := by decide +kernel

/-- The inputs of a position in the tiny frame, a painted row and, with the overlay, a skipped one. -/
theorem inTiny_units :
    let s := inTiny .blank 0 0 34 0 1
    s.border = some 7 ∧ s.latch = some .bank0 ∧ s.flash = some false ∧
      s.osdVisible = some false ∧ drawPhaseOf s.cfg 2 = .botDraw ∧
      (unitWords s false .botDraw 7 .bank0 false 2 0).isSome = true ∧
      unitWords s true .botDraw 7 .bank0 false 2 0 = none := by decide +kernel

/-- Conditions (a), (b) and (c), each at the last cycle count it allows. -/
theorem witness_FlushFinishesTheFrame :
    (let s := inTiny .botWait 2 0 26 0 29
     CanDraw s ∧ isWait s.phase = true ∧ s.cyc.toNat + 1 = s.target.toNat + 4 * s.cfg.units ∧
      exec .flush s = .next (ran .flush s) ∧ (ran .flush s).fault = none) ∧
    (let s := inTiny .botDraw 2 0 34 3 29
     CanDraw s ∧ isDraw s.phase = true ∧
      s.cyc.toNat + s.cfg.cpl + 1 = s.target.toNat + 4 * s.cfg.units ∧
      exec .flush s = .next (ran .flush s) ∧ (ran .flush s).fault = none) ∧
    (let s := inTiny .blank 0 0 34 0 1
     CanDraw s ∧ s.phase = .blank ∧ s.cyc.toNat + s.cfg.cpl + 1 = s.cfg.firstThresh ∧
      exec .flush s = .next (ran .flush s) ∧ (ran .flush s).fault = none) := by
  refine ⟨⟨⟨by decide +kernel, by decide +kernel, inTiny_admitted, inTiny_drawable, ?_⟩,
      by decide +kernel, by decide +kernel, exec_ran _ _, by decide +kernel⟩,
    ⟨⟨by decide +kernel, by decide +kernel, inTiny_admitted, inTiny_drawable, ?_⟩,
      by decide +kernel, by decide +kernel, exec_ran _ _, by decide +kernel⟩,
    ⟨⟨by decide +kernel, by decide +kernel, inTiny_admitted, inTiny_drawable, ?_⟩,
      by decide +kernel, by decide +kernel, exec_ran _ _, by decide +kernel⟩⟩ <;>
    (unfold State.PositionOk
     decide +kernel)

theorem witness_setters_and_pokes : State.reset.fault = none := rfl

/-- FRAME_WRAP at CPF − 1, at CPF, not READY, and the rule's example. -/
theorem witness_FrameWrapSubtractsCpf :
    written.fault = none ∧ written.vstat ≠ .ready ∧
    (placedAt .blank 0 0 62704 1 69887).cyc.toNat + 1 = ready.cfg.cpf ∧
    ready.cfg.cpf ≤ (placedAt .blank 0 0 62704 1 69888).cyc.toNat ∧
    (placedAt .blank 0 0 62704 1 69889).Running ∧
    (placedAt .blank 0 0 62704 1 69889).configs = referenceConfigs :=
  ⟨rfl, by decide +kernel, by decide +kernel, by decide +kernel, by decide +kernel, rfl⟩

/-- The last word inside the buffer, and the first outside in each direction. -/
theorem witness_FbWriteChecksItsBounds :
    (239 < ready.cfg.vres ∧ 79 < ready.cfg.wpr) ∧
    ¬ (240 < ready.cfg.vres ∧ 79 < ready.cfg.wpr) ∧
    ¬ (239 < ready.cfg.vres ∧ 80 < ready.cfg.wpr) := by decide +kernel

theorem witness_OverlayStoresOneWord :
    (let s := { ready with inputs := [.overlayStore 239 79 5] }
     s.configs.admitted = true ∧ s.fault = none ∧ s.inputs = .overlayStore 239 79 5 :: [] ∧
      239 < s.cfg.vres ∧ 79 < s.cfg.wpr) ∧
    (let s := { ready with inputs := [.overlayStore 239 80 5] }
     s.configs.admitted = true ∧ s.fault = none ∧ s.inputs = .overlayStore 239 80 5 :: [] ∧
      ¬ (239 < s.cfg.vres ∧ 80 < s.cfg.wpr)) :=
  ⟨⟨ready_admitted, rfl, rfl, by decide +kernel⟩, ⟨ready_admitted, rfl, rfl, by decide +kernel⟩⟩

theorem witness_RowBytesAreLittleEndian : (0 : Nat) < 4 ∧ (3 : Nat) < 4 := by decide

theorem witness_OnlyUnitWordsAreWritten :
    let s := placedAt .topWait 0 0 8944 0 8900
    s.configs.Drawable ∧ s.PositionOk ∧ exec (.advance 61) s = .next (ran (.advance 61) s) :=
  ⟨ready_drawable, witness_canDraw_wait.2.2.2.2, exec_ran _ _⟩

theorem witness_FrameBufferAndCacheAreNeverRead :
    exec (.advance 0) ready = .next (ran (.advance 0) ready) := exec_ran _ _

theorem witness_EachElementHasItsWriters :
    exec (.setBorder 1) ready = .next (ran (.setBorder 1) ready) ∧
      ¬ IsModeCommand (.setBorder 1) := ⟨exec_ran _ _, id⟩

/-- The hypotheses of the four statements about every step. -/
theorem witness_everyStep :
    let s := { placedAt .topWait 0 0 8944 0 8900 with inputs := [.command 0x3000003D] }
    s.configs.Drawable ∧ s.PositionOk ∧ s.TablesOk ∧ s.StorageOk ∧
      s.fault ≠ some .boundsViolation ∧ ∃ t, step s = .next t ∧ t.col = 4 ∧ t.fault = none :=
  ⟨ready_drawable, witness_canDraw_wait.2.2.2.2, witness_tablesOk.2.1, witness_tablesOk.2.2,
    by decide +kernel, ran (.advance 61) (placedAt .topWait 0 0 8944 0 8900), rfl,
    by decide +kernel, by decide +kernel⟩

theorem witness_PseudoCommandsExpand :
    AsmOperand.IsMachine (.number 128) ∧ AsmOperand.IsAspect (.ratio 16 9) := by decide

theorem witness_OutOfRangeOperandsAreRefused :
    (∃ l ∈ ([⟨.setBorder, [.number 8]⟩] : List AsmLine), l.wf = false) ∧
    (224 : Nat) < 2 ^ 24 ∧ AsmLine.wf ⟨.poke, [.number 1, .number 16383, .number 255]⟩ = true := by
  decide

end Sys2Proof.Tests
end

/-! PROOFS. The statements of spec/00_scope.md: a step runs the decoded command, only admitted
configurations run, and where an interrupt-context SAMPLE lands. The facts they need come first: the
decoder reads every command back, the configuration checks mode by mode, the step's case for each
item of the host's list. -/

namespace Sys2Proof

open Sys2Proof.Machine Sys2Proof.Claims

/-! ### The decoder on encoded commands (R112, R118) -/

/-- Every command's word carries its opcode and is legal under that opcode's row (R116). -/
theorem encode_legal (i : Instr) : Laws.Legal.Statement i := by
  cases i with
  | init m a => exact Laws.Legal.init m a
  | reset m a => exact Laws.Legal.reset m a
  | advance n => exact Laws.Legal.advance n
  | flush => exact Laws.Legal.flush
  | sample n => exact Laws.Legal.sample n
  | setBorder c => exact Laws.Legal.setBorder c
  | setOverlay v => exact Laws.Legal.setOverlay v
  | setFlash v => exact Laws.Legal.setFlash v
  | setLatch v => exact Laws.Legal.setLatch v
  | setCycles n => exact Laws.Legal.setCycles n
  | frameWrap => exact Laws.Legal.frameWrap
  | poke b o d => exact Laws.Legal.poke b o d

/-- The bank field of format FP (R112). -/
theorem bank_formatFP (op : BitVec 4) (b : Bank) (o : Offset) (d : Byte) :
    bankOfBit ((formatFP op b o d).getLsbD 22) = b := by
  have hbit : (formatFP op b o d).getLsbD 22 = b.bit.getLsbD 0 := by
    simp only [formatFP, BitVec.getLsbD_or, getLsbD_placed]
    simp
  rw [hbit]
  cases b <;> rfl

/-- The fields of a command's word are the command's operands (R112). -/
theorem fieldsOf_encode (i : Instr) : fieldsOf (encode i) = some i := by
  cases i with
  | init m a => cases m <;> cases a <;> rfl
  | reset m a => cases m <;> cases a <;> rfl
  | advance n => simp [fieldsOf, encode, opField_formatFN, count_formatFN]
  | flush => rfl
  | sample n => simp [fieldsOf, encode, opField_formatFN, count_formatFN]
  | setBorder c => simp [fieldsOf, encode, opField_formatFC, colour_formatFC]
  | setOverlay v => cases v <;> rfl
  | setFlash v => cases v <;> rfl
  | setLatch v => cases v <;> rfl
  | setCycles n => simp [fieldsOf, encode, opField_formatFN, count_formatFN]
  | frameWrap => rfl
  | poke b o d =>
    simp only [fieldsOf, encode, opField_formatFP, bank_formatFP, offset_formatFP, data_formatFP]
    rfl

/-- The decoder reads every command back from its word (R118). -/
@[simp] theorem decode_encode (i : Instr) : decode (encode i) = .ok i := by
  obtain ⟨hop, row, hrow, hmask⟩ := encode_legal i
  simp [decode, hop, hrow, hmask, fieldsOf_encode]

/-! ### The configuration checks (R9, R312) -/

/-- All four configurations are looked at, one for each mode. -/
theorem Configs.admitted_iff (cs : Configs) :
    cs.admitted = true ↔ ∀ m : Mode, (cs.select m).Admitted := by
  constructor
  · exact Configs.admitted_select
  · intro h
    simp only [Configs.admitted, Bool.and_eq_true, decide_eq_true_eq]
    exact ⟨⟨⟨h ⟨.m48, .a43⟩, h ⟨.m48, .a169⟩⟩, h ⟨.m128, .a43⟩⟩, h ⟨.m128, .a169⟩⟩

/-- Only W8 looks at the overlay rectangle. -/
theorem Cfg.Admitted.withOverlay {c : Cfg} (h : c.Admitted) (rowLo rowHi unitLo unitHi : Nat) :
    let c' := { c with
      osdRowLo := rowLo, osdRowHi := rowHi, osdUnitLo := unitLo, osdUnitHi := unitHi }
    c'.W8 → c'.Admitted := by
  obtain ⟨h1, h2, h3, h4, h5, h6, h7, -⟩ := h
  exact fun h8 => ⟨h1, h2, h3, h4, h5, h6, h7, h8⟩

theorem referenceCfg_admitted (m : Mode) : (referenceCfg m).Admitted := by
  obtain ⟨v, a⟩ := m
  cases v <;> cases a <;> decide +kernel

/-! ### The step on each item of the host's list (R6, R7, R309) -/

theorem step_of_inputs_cons {s : State} {i : HostInput} {rest : List HostInput}
    (ha : s.configs.admitted = true) (hs : s.inputs = i :: rest) :
    step s = applyInput i { s with inputs := rest } := by
  rw [step_of_admitted ha, takeInput, hs]

theorem applyWord_of_decode {w : Word} {i : Instr} (h : decode w = .ok i) (s : State) :
    applyWord w s = exec i s := by
  rw [applyWord, h]

/-- The word handed over for a command is the command's own, 32 bits wide (R110). -/
theorem withFetchWord_encode (s : State) (i : Instr) :
    s.withFetchWord 32 (encode i).toNat = issueWord s (encode i) := by
  rw [State.withFetchWord, Nat.mod_eq_of_lt (encode i).isLt, BitVec.ofNat_toNat,
    BitVec.setWidth_eq]

/-! ### The rebuild a marked SAMPLE lands inside (R341) -/

theorem isModeCommand_iff (w : Word) :
    isModeCommand w = true ↔
      ∃ i, decode w = .ok i ∧ ((∃ m a, i = .init m a) ∨ ∃ m a, i = .reset m a) := by
  unfold isModeCommand
  constructor
  · split
    case h_1 m a hd => exact fun _ => ⟨_, hd, .inl ⟨m, a, rfl⟩⟩
    case h_2 m a hd => exact fun _ => ⟨_, hd, .inr ⟨m, a, rfl⟩⟩
    case h_3 => exact fun h => nomatch h
  · rintro ⟨i, hd, ⟨m, a, rfl⟩ | ⟨m, a, rfl⟩⟩ <;> rw [hd]

/-- The model's look-ahead finds exactly the rebuild the statement speaks of. -/
theorem rebuildNext_iff (rest : List HostInput) :
    rebuildNext rest = true ↔ RebuildFollows rest := by
  constructor
  · intro h
    induction rest with
    | nil => exact nomatch h
    | cons item rest ih =>
      cases item with
      | command w =>
        obtain ⟨i, hd, hi⟩ := (isModeCommand_iff w).mp h
        exact ⟨[], w, rest, i, rfl, hd, hi⟩
      | preemptingSample n =>
        obtain ⟨ns, w, more, i, rfl, hd, hi⟩ := ih h
        exact ⟨n :: ns, w, more, i, rfl, hd, hi⟩
      | interruptSample n => exact nomatch h
      | overlayStore r j w => exact nomatch h
  · rintro ⟨ns, w, more, i, rfl, hd, hi⟩
    induction ns with
    | nil => exact (isModeCommand_iff w).mpr ⟨i, hd, hi⟩
    | cons n ns ih => exact ih

/-- Inside a rebuild a SAMPLE appends one drawn byte and changes nothing else. -/
theorem applyPreempting_of_rebuild {s : State} (hr : RebuildFollows s.inputs)
    (hf : s.fault = none) (n : Count) :
    applyPreempting n s = .next
      { s with out := s.out ++ [Config.rebuildByte s.draws], draws := s.draws + 1 } := by
  rw [applyPreempting, if_pos ((rebuildNext_iff _).mpr hr), applyCommand_running hf]
  rfl

theorem applyPreempting_of_no_rebuild {s : State} (hr : ¬ RebuildFollows s.inputs) (n : Count) :
    applyPreempting n s = exec (.sample n) s := by
  rw [applyPreempting, if_neg (mt (rebuildNext_iff _).mp hr)]
  rfl

/-! ### The statements -/

/-- Settles O8: the step's first test is the admission check, which looks at the configuration of
every mode; an admitted configuration stays so under any rectangle that meets W8. -/
theorem onlyAdmittedConfigurationsRun : Obligations.OnlyAdmittedConfigurationsRun := by
  refine ⟨fun s h => ?_, Configs.admitted_iff, fun m => (referenceCfg_admitted m).withOverlay⟩
  obtain ⟨-, hrefused⟩ | ⟨hadmitted, -⟩ := step_cases s
  · exact hrefused
  · exact absurd hadmitted (by simp [h])

/-- Settles O25: the model's look-ahead `rebuildNext` decides between the two meanings of a marked
SAMPLE exactly as `RebuildFollows` does. -/
theorem interruptSamplesLandAsTheSpecSays : Obligations.InterruptSamplesLandAsTheSpecSays := by
  intro s n rest ha
  refine ⟨fun hs => step_of_inputs_cons ha hs, fun hs hf hr => ⟨Config.rebuildByte s.draws, ?_⟩,
    fun hs hr => ?_⟩
  · rw [step_of_inputs_cons ha hs]
    exact applyPreempting_of_rebuild (s := { s with inputs := rest }) hr hf n
  · rw [step_of_inputs_cons ha hs]
    exact applyPreempting_of_no_rebuild (s := { s with inputs := rest }) hr n

/-- Settles O6: a step applies the head of the host's list, and the word put there for a command
decodes to that command. -/
theorem stepRunsTheDecodedCommand : Obligations.StepRunsTheDecodedCommand := by
  constructor
  · intro s w rest i ha hs hd
    rw [step_of_inputs_cons ha hs]
    exact applyWord_of_decode hd _
  · intro s i ha
    rw [withFetchWord_encode, step_of_inputs_cons (s := issueWord s (encode i)) ha rfl]
    exact applyWord_of_decode (decode_encode i) s

end Sys2Proof

/-! PROOFS. The statements of spec/10_state.md, first part: the writers of every element, the faults
that stop a command at its entry, the power-on state, the offset tables. The facts they need come
first: each command as a guarded state change, and how an invariant passes through a step. -/

namespace Sys2Proof

open Sys2Proof.Machine Sys2Proof.Claims

/-! ### Every command is a state change under the fault guard (R300) -/

/-- What a command does to an unfaulted state. -/
def commandBody : Instr → State → State
  | .init m a => initialise ⟨m, a⟩
  | .reset m a => initialise ⟨m, a⟩
  | .advance n => advance (zextCount n).toNat
  | .flush => flush
  | .sample n => sample (zextCount n).toNat
  | .setBorder c => fun s => { s with border := some c }
  | .setOverlay v => fun s => { s with osdVisible := some v }
  | .setFlash v => fun s => { s with flash := some v }
  | .setLatch v => fun s => { s with latch := some v }
  | .setCycles n => fun s => { s with cyc := zextCount n }
  | .frameWrap => frameWrap
  | .poke b o d => fun s => { s with vram := Memory.write s.vram b o d }

theorem exec_eq_applyCommand (i : Instr) (s : State) :
    exec i s = applyCommand s (commandBody i) := by
  cases i <;> rfl

theorem exec_running {s : State} (h : s.fault = none) (i : Instr) :
    exec i s = .next (commandBody i s) := by
  rw [exec_eq_applyCommand, applyCommand_running h]

theorem exec_advance {s : State} (h : s.fault = none) (n : Count) :
    exec (.advance n) s = .next (advance n.toNat s) := by
  rw [exec_running h, commandBody, zextCount_toNat]

/-- A command that answers `t` left a faulted state alone, or its body ran. -/
theorem exec_next_cases {i : Instr} {s t : State} (h : exec i s = .next t) :
    (s.fault ≠ none ∧ t = s) ∨ (s.fault = none ∧ t = commandBody i s) := by
  cases hf : s.fault with
  | none =>
    rw [exec_running hf] at h
    exact .inr ⟨rfl, (Host.Outcome.next.inj h).symm⟩
  | some k =>
    rw [exec_stopped hf] at h
    exact .inl ⟨nofun, (Host.Outcome.next.inj h).symm⟩

/-- No command clears FAULT (R300). -/
theorem exec_fault_none {i : Instr} {s t : State} (h : exec i s = .next t) (ht : t.fault = none) :
    s.fault = none := by
  obtain ⟨-, rfl⟩ | ⟨hf, -⟩ := exec_next_cases h
  · exact ht
  · exact hf

/-! ### An invariant passes through a step -/

section StepInvariant

variable {P : State → Prop}

theorem applyCommand_keeps {s t : State} {f : State → State} (hs : P s) (hf : ∀ s, P s → P (f s))
    (h : applyCommand s f = .next t) : P t := by
  cases h
  exact andThen_keeps hs hf

/-- What commands, an illegal word, a SAMPLE inside a rebuild and an overlay store keep, every step
keeps. -/
theorem step_keeps (htake : ∀ s rest, P s → P { s with inputs := rest })
    (hexec : ∀ i s t, P s → exec i s = .next t → P t)
    (hillegal : ∀ s, P s → P (raise .illegalCommand s))
    (hrebuild : ∀ s, P s → P (sampleInRebuild s))
    (hstore : ∀ s r j w, P s → P { s with fb := FrameBuffer.write s.fb r j w })
    {s t : State} (hs : P s) (h : step s = .next t) : P t := by
  rw [step_of_admitted (step_next_admitted h), takeInput] at h
  split at h
  next => cases h; exact hs
  next item rest _ =>
    have hs' := htake s rest hs
    have sampled (n : Count) (hn : execSample n { s with inputs := rest } = .next t) : P t :=
      hexec (.sample n) { s with inputs := rest } t hs' hn
    cases item with
    | command w =>
      rw [applyInput, applyWord] at h
      split at h
      · exact hexec _ { s with inputs := rest } t hs' h
      · exact applyCommand_keeps hs' hillegal h
    | interruptSample n => exact sampled n h
    | preemptingSample n =>
      rw [applyInput, applyPreempting] at h
      split at h
      · exact applyCommand_keeps hs' hrebuild h
      · exact sampled n h
    | overlayStore r j w =>
      rw [applyInput, overlayStore] at h
      split at h
      · cases h; exact hs'
      · split at h
        · cases h; exact hstore _ r j w hs'
        · cases h

end StepInvariant

/-! ### What INIT, RESET and FRAME_WRAP can change -/

/-- INIT and RESET touch no input, no memory and no list of the host's (R46, R51, R261). -/
theorem initialise_frame (m : Mode) (s : State) :
    let t := initialise m s
    t.border = s.border ∧ t.flash = s.flash ∧ t.osdVisible = s.osdVisible ∧ t.latch = s.latch ∧
      t.vram = s.vram ∧ t.fb = s.fb ∧ t.inputs = s.inputs ∧ t.configs = s.configs ∧
      t.fault = s.fault := by
  unfold initialise
  dsimp only
  split <;> exact ⟨rfl, rfl, rfl, rfl, rfl, rfl, rfl, rfl, rfl⟩

theorem frameWrap_frame (s : State) : ∃ cy f, frameWrap s = { s with cyc := cy, fault := f } := by
  unfold frameWrap
  split
  · exact ⟨s.cyc, _, rfl⟩
  · split
    · exact ⟨s.cyc, _, rfl⟩
    · exact ⟨_, s.fault, rfl⟩

/-! ### The writers of every element -/

/-- Settles O53: a faulted state is left as it is; otherwise each command's frame lemma names all it
can change. -/
theorem eachElementHasItsWriters : Obligations.EachElementHasItsWriters := by
  intro i s t h
  obtain ⟨-, rfl⟩ | ⟨-, rfl⟩ := exec_next_cases h
  · simp
  cases i with
  | init m a => have := initialise_frame ⟨m, a⟩ s; simp_all [commandBody, IsModeCommand]
  | reset m a => have := initialise_frame ⟨m, a⟩ s; simp_all [commandBody, IsModeCommand]
  | advance n =>
    obtain ⟨p, l, u, ta, ca, cy, o, fb, bc, f, hframe⟩ := advance_frame n.toNat s
    simp [commandBody, hframe]
  | flush =>
    obtain ⟨p, l, u, ta, ca, cy, o, fb, bc, f, hframe⟩ := flush_frame s
    simp [commandBody, hframe]
  | sample n =>
    obtain ⟨o, f, hframe⟩ := sample_frame n.toNat s
    simp [commandBody, hframe]
  | frameWrap =>
    obtain ⟨cy, f, hframe⟩ := frameWrap_frame s
    simp [commandBody, hframe]
  | setBorder c => simp [commandBody]
  | setOverlay v => simp [commandBody]
  | setFlash v => simp [commandBody]
  | setLatch v => simp [commandBody]
  | setCycles n => simp [commandBody]
  | poke b o d => simp [commandBody]

/-- No command changes CFG or the host's list (R6, R8). -/
theorem exec_configs {i : Instr} {s t : State} (h : exec i s = .next t) :
    t.configs = s.configs := by
  obtain ⟨-, -, -, -, -, -, -, -, -, -, -, hconfigs⟩ := eachElementHasItsWriters i s t h
  exact hconfigs

/-- Only INIT and RESET write MODE, VSTAT and the tables but BCACHE (R44, R45, R98). -/
theorem exec_tables {i : Instr} {s t : State} (h : exec i s = .next t) (hm : ¬ IsModeCommand i) :
    t.mode = s.mode ∧ t.vstat = s.vstat ∧ t.palette = s.palette ∧ t.alu = s.alu ∧
      t.bmpOff = s.bmpOff ∧ t.attrOff = s.attrOff ∧ t.borderWord = s.borderWord := by
  obtain ⟨htables, -⟩ := eachElementHasItsWriters i s t h
  obtain ⟨h1, h2, h3, h4, h5, h6, h7, -⟩ := htables hm
  exact ⟨h1, h2, h3, h4, h5, h6, h7⟩

/-- Only INIT, RESET, ADVANCE and FLUSH write the raster position, OSD_ACTIVE and BCACHE (R32, R38,
R43). -/
theorem exec_raster {i : Instr} {s t : State} (h : exec i s = .next t) (hm : ¬ IsModeCommand i)
    (ha : ∀ n, i ≠ .advance n) (hf : i ≠ .flush) :
    t.phase = s.phase ∧ t.line = s.line ∧ t.col = s.col ∧ t.target = s.target ∧
      t.carry = s.carry ∧ t.osdActive = s.osdActive ∧ t.bcache = s.bcache := by
  obtain ⟨-, hraster, -⟩ := eachElementHasItsWriters i s t h
  exact hraster hm ha hf

/-! ### Faults at a command's entry (R300, R302) -/

/-- Settles O9: the fault guard stands before every command, before the overlay's store, and before
the fault an illegal word would raise. -/
theorem faultIsFinal : Obligations.FaultIsFinal := by
  refine ⟨rfl, fun s k hk => ⟨exec_stopped hk, fun ha => ?_⟩⟩
  cases hs : s.inputs with
  | nil =>
    have hsame : s = { s with inputs := [] } := by rw [← hs]
    rw [step_of_admitted ha, takeInput, hs]
    exact congrArg Host.Outcome.next hsame
  | cons item rest =>
    rw [step_of_inputs_cons ha hs, List.tail_cons]
    have hk' : ({ s with inputs := rest } : State).fault = some k := hk
    cases item with
    | command w =>
      rw [applyInput, applyWord]
      split
      · exact exec_stopped hk' _
      · exact applyCommand_stopped hk' _
    | interruptSample n => exact applyCommand_stopped hk' _
    | preemptingSample n =>
      rw [applyInput, applyPreempting]
      split <;> exact applyCommand_stopped hk' _
    | overlayStore r j w => rw [applyInput, overlayStore, if_pos (by simp [hk])]

theorem advance_overflow {n : Nat} {s : State} (h : s.vstat = .ready)
    (hn : 2 ^ 32 ≤ s.cyc.toNat + n) :
    advance n s = raise .cycleOverflow s := by
  rw [advance, if_neg (not_not_intro h), if_pos hn]

/-- Settles O10: VSTAT is the first test of the four bodies, the count the second. -/
theorem entryChecksRaiseInOrder : Obligations.EntryChecksRaiseInOrder := by
  intro s hf
  refine ⟨fun hv => ⟨fun n => ?_, ?_, fun n => ?_, ?_⟩, fun hv => ⟨fun n hn => ?_, fun hc => ?_⟩⟩
  · rw [exec_advance hf, advance_notReady hv]; rfl
  · rw [exec_running hf, commandBody, flush, if_pos hv]; rfl
  · rw [exec_running hf, commandBody, sample, if_pos hv]; rfl
  · rw [exec_running hf, commandBody, frameWrap, if_pos hv]; rfl
  · rw [exec_advance hf, advance_overflow hv hn]; rfl
  · rw [exec_running hf, commandBody, frameWrap, if_neg (not_not_intro hv), if_pos hc]; rfl

/-! ### INIT and RESET with a failed allocation (R263) -/

theorem initialise_failed {s : State} (h : s.allocOk = false) (m : Mode) :
    initialise m s = initFailed { s with mode := m, allocs := s.allocs.tail } := by
  simp [initialise, h]

theorem initialise_succeeded {s : State} (h : s.allocOk = true) (m : Mode) :
    initialise m s = initSucceeded { s with mode := m, allocs := s.allocs.tail } := by
  simp [initialise, h]

/-- Settles O13: the values left are the model's free draw for this failure. -/
theorem failedInitLeavesNothingReadable : Obligations.FailedInitLeavesNothingReadable := by
  intro m a s hf halloc
  refine ⟨Config.unspecified s.draws, ?_, ?_⟩ <;>
    (rw [exec_running hf, commandBody, initialise_failed halloc]; rfl)

/-! ### The overlay's store (R51, R99) -/

/-- Settles O50: the store is one frame-buffer write, behind the test of R84. -/
theorem overlayStoresOneWord : Obligations.OverlayStoresOneWord := by
  intro s r j w rest ha hf hs
  have hstep : step s = overlayStore r j w { s with inputs := rest } := step_of_inputs_cons ha hs
  have hrunning : ¬ s.fault.isSome := by simp [hf]
  have hinside := State.inFrameBuffer_iff { s with inputs := rest } r j
  constructor
  · intro hin
    refine ⟨{ s with inputs := rest, fb := FrameBuffer.write s.fb r j w }, ?_, rfl,
      FrameBuffer.read_write_same .., fun r' j' hne => FrameBuffer.read_write_other _ _ hne⟩
    rw [hstep, overlayStore, if_neg hrunning, if_pos (hinside.mpr hin)]
  · intro hout
    rw [hstep, overlayStore, if_neg hrunning, if_neg (mt hinside.mp hout)]

/-! ### Power-on (R330) -/

theorem referenceCfg_drawable (m : Mode) : (referenceCfg m).Drawable := by
  obtain ⟨v, a⟩ := m
  cases v <;> cases a <;> decide

theorem referenceConfigs_select (m : Mode) : referenceConfigs.select m = referenceCfg m := by
  obtain ⟨v, a⟩ := m
  cases v <;> cases a <;> rfl

theorem referenceConfigs_admitted : referenceConfigs.admitted = true :=
  (Configs.admitted_iff _).mpr fun m => referenceConfigs_select m ▸ referenceCfg_admitted m

/-- Settles O57: VSTAT is UNINIT at power-on, the storage is empty and the configurations are the
reference ones. -/
theorem powerOnMeetsTheInvariants : Obligations.PowerOnMeetsTheInvariants := by
  have huninit : State.reset.vstat ≠ .ready := nofun
  exact ⟨fun h => absurd h.1 huninit, fun h => absurd h huninit, ⟨rfl, rfl⟩,
    referenceConfigs_admitted, referenceCfg_drawable _, referenceCfg_drawable _,
    referenceCfg_drawable _, referenceCfg_drawable _⟩

/-! ### The offset tables INIT builds (R160 to R162) -/

/-- A successful INIT leaves both offset tables as built for the new mode's CFG. -/
theorem afterInit_offsets {m : Variant} {a : Aspect} {s t : State} (h : AfterInit m a s t) :
    t.bmpOff = buildBmpOff t.cfg ∧ t.attrOff = buildAttrOff t.cfg ∧ t.configs = s.configs := by
  obtain ⟨hf, hexec, hready⟩ := h
  obtain rfl : commandBody (.init m a) s = t := by
    rw [exec_running hf] at hexec; exact Host.Outcome.next.inj hexec
  rw [commandBody] at hready ⊢
  cases halloc : s.allocOk with
  | false => rw [initialise_failed halloc] at hready; cases hready
  | true => rw [initialise_succeeded halloc]; exact ⟨rfl, rfl, rfl⟩

theorem buildBmpOff_getD {c : Cfg} {i : Nat} (h : i < c.screenLines) :
    (buildBmpOff c).getD i 0 = BitVec.ofNat 14 (bmpOffset i) := by
  rw [List.getD_eq_getElem?_getD, buildBmpOff_getElem?, if_pos h, Option.getD_some]

theorem buildAttrOff_getD {c : Cfg} {i : Nat} (h : i < c.screenLines) :
    (buildAttrOff c).getD i 0 = BitVec.ofNat 14 (attrOffset c i) := by
  rw [List.getD_eq_getElem?_getD, buildAttrOff_getElem?, if_pos h, Option.getD_some]

/-- The 14-bit offset of a line number, as the formula of R161 on its low 8 bits. -/
theorem ofNat_bmpOffset (i : Nat) :
    BitVec.ofNat 14 (bmpOffset i) =
      (((BitVec.ofNat 8 i).setWidth 14 &&& 0xC0) <<< 5) |||
        (((BitVec.ofNat 8 i).setWidth 14 &&& 0x07) <<< 8) |||
        (((BitVec.ofNat 8 i).setWidth 14 &&& 0x38) <<< 2) := by
  apply BitVec.eq_of_toNat_eq
  have hwide : i % 256 % 16384 = i % 256 := by omega
  simp [bmpOffset, hwide]

/-- R161's formula moves the line's bits to the places R161 names. -/
theorem bmpFormula_fields (v : Byte) :
    let o : Offset := ((v.setWidth 14 &&& 0xC0) <<< 5) ||| ((v.setWidth 14 &&& 0x07) <<< 8) |||
      ((v.setWidth 14 &&& 0x38) <<< 2)
    o.extractLsb' 13 1 = 0 ∧ o.extractLsb' 11 2 = v.extractLsb' 6 2 ∧
      o.extractLsb' 8 3 = v.extractLsb' 0 3 ∧ o.extractLsb' 5 3 = v.extractLsb' 3 3 ∧
      o.extractLsb' 0 5 = 0 := by
  revert v
  decide +kernel

/-- Settles O18: the table is the one built from CFG, and the formula is a bit permutation. -/
theorem bitmapOffsetsPermuteTheLine : Obligations.BitmapOffsetsPermuteTheLine := by
  intro m a s t h
  obtain ⟨hbmp, -, -⟩ := afterInit_offsets h
  refine ⟨by rw [hbmp, buildBmpOff_length], fun i hi => ?_⟩
  dsimp only
  rw [hbmp, buildBmpOff_getD hi, ofNat_bmpOffset]
  exact ⟨rfl, bmpFormula_fields _⟩

/-- W7 keeps the offsets in ATTR_OFF of a configuration with cells below 2^14 (R9, R162). -/
theorem attrOffset_lt {c : Cfg} (hc : c.Admitted) (hcells : 0 < c.screenCells) {i : Nat}
    (hi : i < c.screenLines) : attrOffset c i < 2 ^ 14 := by
  obtain ⟨-, -, -, -, -, -, h7, -⟩ := hc
  obtain ⟨-, hattr⟩ := (Cfg.w7_iff c).mp h7 i hi
  omega

/-- Settles O19: W7 leaves no wrap, and the formula sees a line's character row only. -/
theorem attributeOffsetsShareARow : Obligations.AttributeOffsetsShareARow := by
  intro m a s t ha h hcells
  obtain ⟨-, hattr, hconfigs⟩ := afterInit_offsets h
  have hadmitted : t.cfg.Admitted := Configs.admitted_select (hconfigs ▸ ha) t.mode
  refine ⟨by rw [hattr, buildAttrOff_length], fun i hi => ?_, fun i hi j hj hij => ?_⟩
  · rw [hattr, buildAttrOff_getD hi, BitVec.toNat_ofNat,
      Nat.mod_eq_of_lt (attrOffset_lt hadmitted hcells hi), attrOffset]
  · rw [hattr, buildAttrOff_getD hi, buildAttrOff_getD hj, attrOffset, attrOffset, hij]

end Sys2Proof

/-! PROOFS. The statements of spec/10_state.md, second part: the position and table invariants of
every step, the moves of PHASE and OSD_ACTIVE. What ADVANCE can answer comes first, said once as the
cases `AdvanceCase`. -/

namespace Sys2Proof

open Sys2Proof.Machine Sys2Proof.Claims

/-! ### What ADVANCE can answer (R202 to R206) -/

/-- Step 1 of ADVANCE n: CYC + n (R202). -/
def countCycles (n : Nat) (s : State) : State := { s with cyc := s.cyc + BitVec.ofNat 32 n }

/-- The state an ADVANCE n in a draw sub-state starts to draw from (R202, R206). -/
def drawStart (n : Nat) (s : State) : State :=
  { s with
    cyc := s.cyc + BitVec.ofNat 32 n
    carry := BitVec.ofNat 32 ((n + s.carry.toNat) % 4) }

/-- The state an ADVANCE n that crosses TARGET starts to draw from, OSD_VISIBLE being `v` (R205). -/
def crossStart (n : Nat) (v : Bool) (s : State) : State :=
  { s with
    cyc := s.cyc + BitVec.ofNat 32 n
    carry := BitVec.ofNat 32 ((s.cyc.toNat + n - s.target.toNat) % 4)
    target := s.target + BitVec.ofNat 32 s.cfg.cpl
    col := 0
    osdActive := v
    phase := drawOf s.phase }

/-- Every answer ADVANCE n can give in an unfaulted state, with its guard. -/
inductive AdvanceCase (n : Nat) (s : State) : State → Prop
  | notReady (hv : s.vstat ≠ .ready) : AdvanceCase n s (raise .notReady s)
  | overflow (hv : s.vstat = .ready) (hn : 2 ^ 32 ≤ s.cyc.toNat + n) :
      AdvanceCase n s (raise .cycleOverflow s)
  | frameStart (hv : s.vstat = .ready) (hn : s.cyc.toNat + n < 2 ^ 32) (hp : s.phase = .blank)
      (hc : s.cyc.toNat + n < s.cfg.firstThresh) :
      AdvanceCase n s
        { s with
          cyc := s.cyc + BitVec.ofNat 32 n
          line := 0
          col := 0
          target := BitVec.ofNat 32 s.cfg.firstThresh
          phase := .topWait }
  | counted (hv : s.vstat = .ready) (hn : s.cyc.toNat + n < 2 ^ 32)
      (hp : s.phase = .blank ∧ s.cfg.firstThresh ≤ s.cyc.toNat + n ∨
        isWait s.phase = true ∧ s.cyc.toNat + n < s.target.toNat) :
      AdvanceCase n s (countCycles n s)
  | unlatched (hv : s.vstat = .ready) (hn : s.cyc.toNat + n < 2 ^ 32) (hp : isWait s.phase = true)
      (ht : s.target.toNat ≤ s.cyc.toNat + n) (ho : s.osdVisible = none) :
      AdvanceCase n s
        { s with
          cyc := s.cyc + BitVec.ofNat 32 n
          carry := s.cyc + BitVec.ofNat 32 n - s.target
          target := s.target + BitVec.ofNat 32 s.cfg.cpl
          col := 0
          fault := some (.unwrittenInput .osdVisible) }
  | crossed (v : Bool) (hv : s.vstat = .ready) (hn : s.cyc.toNat + n < 2 ^ 32)
      (hp : isWait s.phase = true) (ht : s.target.toNat ≤ s.cyc.toNat + n)
      (ho : s.osdVisible = some v) :
      AdvanceCase n s
        (emitUnits ((s.cyc.toNat + n - s.target.toNat) / 4) (crossStart n v s))
  | drew (hv : s.vstat = .ready) (hn : s.cyc.toNat + n < 2 ^ 32) (hp : isDraw s.phase = true) :
      AdvanceCase n s (emitUnits ((n + s.carry.toNat) / 4) (drawStart n s))

theorem phase_cases (p : Phase) : p = .blank ∨ isWait p = true ∨ isDraw p = true := by
  cases p <;> decide

/-- CYC − TARGET after step 1 of an ADVANCE that reaches TARGET (R205). -/
theorem overshoot_toNat {c t : Word} {n : Nat} (hn : c.toNat + n < 2 ^ 32)
    (ht : t.toNat ≤ c.toNat + n) :
    (c + BitVec.ofNat 32 n - t).toNat = c.toNat + n - t.toNat := by
  rw [BitVec.toNat_sub_of_le (by rw [BitVec.le_def, cyc_add_toNat hn]; exact ht), cyc_add_toNat hn]

section AdvanceEquations

variable {n : Nat} {s : State}

theorem advance_phaseStep (hv : s.vstat = .ready) (hn : s.cyc.toNat + n < 2 ^ 32) :
    advance n s = phaseStep n (countCycles n s) := advance_ready hv hn

theorem advance_draw (hv : s.vstat = .ready) (hn : s.cyc.toNat + n < 2 ^ 32)
    (hp : isDraw s.phase = true) :
    advance n s = emitUnits ((n + s.carry.toNat) / 4) (drawStart n s) := by
  rw [advance_phaseStep hv hn, phaseStep_draw (s := countCycles n s) hp]
  rfl

/-- In a wait sub-state ADVANCE n crosses the boundary once CYC + n has reached TARGET (R204,
R205). -/
theorem advance_wait (hv : s.vstat = .ready) (hn : s.cyc.toNat + n < 2 ^ 32)
    (hp : isWait s.phase = true) :
    advance n s =
      if s.cyc.toNat + n < s.target.toNat then countCycles n s
      else crossBoundary (countCycles n s) := by
  rw [advance_phaseStep hv hn, phaseStep_wait (s := countCycles n s) hp, waitStep,
    ← cyc_add_toNat hn]
  rfl

/-- A crossing with OSD_VISIBLE written draws the overshoot's whole units (R205, R206). -/
theorem crossBoundary_latched (hf : s.fault = none) {v : Bool} (ho : s.osdVisible = some v) :
    crossBoundary s =
      drawBody 0
        { s with
          carry := s.cyc - s.target
          target := s.target + BitVec.ofNat 32 s.cfg.cpl
          col := 0
          osdActive := v
          phase := drawOf s.phase } := by
  simp [crossBoundary, latchVariant, readOsdVisible, ho, andThen, hf]

theorem crossBoundary_unlatched (ho : s.osdVisible = none) :
    crossBoundary s =
      { s with
        carry := s.cyc - s.target
        target := s.target + BitVec.ofNat 32 s.cfg.cpl
        col := 0
        fault := some (.unwrittenInput .osdVisible) } := by
  simp [crossBoundary, latchVariant, readOsdVisible, ho, andThen, raise]

theorem advance_cross (hf : s.fault = none) (hv : s.vstat = .ready)
    (hn : s.cyc.toNat + n < 2 ^ 32) (hp : isWait s.phase = true)
    (ht : s.target.toNat ≤ s.cyc.toNat + n) {v : Bool} (ho : s.osdVisible = some v) :
    advance n s = emitUnits ((s.cyc.toNat + n - s.target.toNat) / 4) (crossStart n v s) := by
  rw [advance_wait hv hn hp, if_neg (Nat.not_lt.mpr ht),
    crossBoundary_latched (s := countCycles n s) hf ho, drawBody, Nat.zero_add,
    crossStart, ← overshoot_toNat hn ht]
  rfl

theorem advance_cross_unlatched (hv : s.vstat = .ready) (hn : s.cyc.toNat + n < 2 ^ 32)
    (hp : isWait s.phase = true) (ht : s.target.toNat ≤ s.cyc.toNat + n)
    (ho : s.osdVisible = none) :
    advance n s =
      { s with
        cyc := s.cyc + BitVec.ofNat 32 n
        carry := s.cyc + BitVec.ofNat 32 n - s.target
        target := s.target + BitVec.ofNat 32 s.cfg.cpl
        col := 0
        fault := some (.unwrittenInput .osdVisible) } := by
  rw [advance_wait hv hn hp, if_neg (Nat.not_lt.mpr ht),
    crossBoundary_unlatched (s := countCycles n s) ho]
  rfl

theorem advance_blank (hv : s.vstat = .ready) (hn : s.cyc.toNat + n < 2 ^ 32)
    (hp : s.phase = .blank) :
    advance n s =
      if s.cyc.toNat + n < s.cfg.firstThresh then
        { s with
          cyc := s.cyc + BitVec.ofNat 32 n
          line := 0
          col := 0
          target := BitVec.ofNat 32 s.cfg.firstThresh
          phase := .topWait }
      else countCycles n s := by
  rw [advance_phaseStep hv hn, phaseStep_blank (s := countCycles n s) hp, blankStep,
    ← cyc_add_toNat hn]
  rfl

theorem advance_cases {t : State} (hf : s.fault = none) (h : advance n s = t) :
    AdvanceCase n s t := by
  subst h
  by_cases hv : s.vstat = .ready
  case neg => rw [advance_notReady hv]; exact .notReady hv
  by_cases hn : s.cyc.toNat + n < 2 ^ 32
  case neg => rw [advance_overflow hv (by omega)]; exact .overflow hv (by omega)
  obtain hp | hp | hp := phase_cases s.phase
  · rw [advance_blank hv hn hp]
    split
    next hc => exact .frameStart hv hn hp hc
    next hc => exact .counted hv hn (.inl ⟨hp, by omega⟩)
  · by_cases ht : s.target.toNat ≤ s.cyc.toNat + n
    · cases ho : s.osdVisible with
      | none => rw [advance_cross_unlatched hv hn hp ht ho]; exact .unlatched hv hn hp ht ho
      | some v => rw [advance_cross hf hv hn hp ht ho]; exact .crossed v hv hn hp ht ho
    · rw [advance_wait hv hn hp, if_pos (by omega)]
      exact .counted hv hn (.inr ⟨hp, by omega⟩)
  · rw [advance_draw hv hn hp]
    exact .drew hv hn hp

end AdvanceEquations

/-! ### What ADVANCE keeps, FLUSH keeps (R217) -/

theorem flushPasses_keeps {P : State → Prop}
    (hadvance : ∀ n s, s.fault = none → P s → P (advance n s)) (k : Nat) {s : State}
    (hf : s.fault = none) (hs : P s) : P (flushPasses k s) := by
  induction k generalizing s with
  | zero => exact hs
  | succ k ih =>
    have hnext := hadvance s.cfg.cpl s hf hs
    rw [flushPasses]
    split
    · cases hfault : (advance s.cfg.cpl s).fault with
      | none => rw [andThen_running hfault]; exact ih hfault hnext
      | some _ => rw [andThen_stopped hfault]; exact hnext
    · exact hs

theorem flush_keeps {P : State → Prop}
    (hadvance : ∀ n s, s.fault = none → P s → P (advance n s)) {s : State}
    (hf : s.fault = none) (hs : P s) : P (flush s) := by
  rw [flush]
  split
  next hv => exact advance_notReady (n := 0) hv ▸ hadvance 0 s hf hs
  next => exact flushPasses_keeps hadvance _ hf hs

/-! ### The loop of DrawBody, one unit at a time (R206) -/

/-- A unit's emission leaves the position alone, so that the loop goes on from the next unit, ends
the row, or stops at the fault the emission raised. -/
theorem emitUnits_keeps {P : State → Prop}
    (hemit : ∀ s, isDraw s.phase = true → P s → P (emitUnit s))
    (hcount : ∀ s, isDraw s.phase = true → s.col + 1 ≠ s.cfg.units → P s →
      P { s with col := s.col + 1 })
    (hrow : ∀ s, isDraw s.phase = true → P s → P (rowDone { s with col := s.col + 1 }))
    (k : Nat) {s : State} (hp : isDraw s.phase = true) (hs : P s) : P (emitUnits k s) := by
  induction k generalizing s with
  | zero => exact hs
  | succ k ih =>
    have hnext := hemit s hp hs
    have hp' : isDraw (emitUnit s).phase = true := by
      obtain ⟨fb, bc, f, hframe⟩ := emitUnit_frame s
      rw [hframe]; exact hp
    rw [emitUnits, andThen]
    split
    · exact hnext
    · dsimp only
      split
      · exact hrow _ hp' hnext
      next hcol => exact ih hp' (hcount _ hp' hcol hnext)

/-! ### The ranges of the raster position (R33 to R36) -/

/-- LINE, COL, TARGET and CARRY lie where R54 puts them: `State.PositionOk` asks it of a READY,
unfaulted state. -/
def Positioned (s : State) : Prop :=
  LineInRange s.cfg s.phase s.line ∧ ColInRange s.cfg s.phase s.col ∧
    TargetInRange s.cfg s.phase s.line s.target.toNat ∧ s.carry.toNat < 4

theorem positionOk_iff (s : State) : s.PositionOk ↔ (s.Running → Positioned s) := Iff.rfl

/-- The position invariant with what its step rests on: admitted and drawable configurations. -/
def RasterOk (s : State) : Prop :=
  s.configs.admitted = true ∧ s.configs.Drawable ∧ s.PositionOk

theorem Configs.Drawable.select {cs : Configs} (h : cs.Drawable) (m : Mode) :
    (cs.select m).Drawable := by
  obtain ⟨h1, h2, h3, h4⟩ := h
  obtain ⟨v, a⟩ := m
  cases v <;> cases a <;> assumption

section Ranges

variable {c : Cfg} {p : Phase} {l : Nat}

theorem rowStart_succ (c : Cfg) (r : Nat) : c.rowStart (r + 1) = c.rowStart r + c.cpl := by
  simp only [Cfg.rowStart, Nat.succ_mul]
  omega

/-- The line boundaries of a frame fit 32 bits (W5). -/
theorem rowStart_lt (hc : c.Admitted) {r : Nat} (hr : r ≤ c.vres) : c.rowStart r < 2 ^ 32 := by
  obtain ⟨-, -, -, -, ⟨-, hfits, hcpf⟩, -⟩ := hc
  have : r * c.cpl ≤ c.vres * c.cpl := Nat.mul_le_mul_right _ hr
  simp only [Cfg.rowStart]
  omega

theorem line_lt_vres (hc : c.Admitted) (hp : isDraw p = true) (hl : LineInRange c p l) :
    l < c.vres := by
  obtain ⟨-, ⟨hvres, -, hbb⟩, -⟩ := hc
  obtain ⟨-, htop, hmain, hbot⟩ := hl
  cases p with
  | topDraw => have := htop (.inr rfl); omega
  | mainDraw => have := hmain (.inr rfl); omega
  | botDraw => exact (hbot (.inr rfl)).2
  | blank | topWait | mainWait | botWait => cases hp

/-- A wait sub-state and its draw sub-state belong to the same rows (R33, R200). -/
theorem lineInRange_drawOf (hp : isWait p = true) (hl : LineInRange c p l) :
    LineInRange c (drawOf p) l := by
  obtain ⟨-, htop, hmain, hbot⟩ := hl
  cases p with
  | topWait => exact ⟨nofun, fun _ => htop (.inl rfl), by simp [drawOf], by simp [drawOf]⟩
  | mainWait => exact ⟨nofun, by simp [drawOf], fun _ => hmain (.inl rfl), by simp [drawOf]⟩
  | botWait => exact ⟨nofun, by simp [drawOf], by simp [drawOf], fun _ => hbot (.inl rfl)⟩
  | blank | topDraw | mainDraw | botDraw => cases hp

/-- After row l the machine waits for row l + 1, or is in BLANK at the frame's last boundary
(R33, R35, R207). -/
theorem nextRow_inRange (hc : c.Admitted) (hd : c.Drawable) (hp : isDraw p = true)
    (hl : LineInRange c p l) :
    let next := nextRow c p (l + 1)
    isDraw next.1 = false ∧ LineInRange c next.1 next.2 ∧
      TargetInRange c next.1 next.2 (c.rowStart (l + 1)) := by
  obtain ⟨-, ⟨hvres, htb, hbb⟩, -⟩ := hc
  obtain ⟨hlines, -⟩ := hd
  obtain ⟨-, htop, hmain, hbot⟩ := hl
  cases p with
  | topDraw =>
    have := htop (.inr rfl)
    by_cases h : l + 1 < c.tb
    · simp [nextRow, LineInRange, TargetInRange, isDraw, isWait, h]
    · simp [nextRow, LineInRange, TargetInRange, isDraw, isWait, h]; omega
  | mainDraw =>
    have := hmain (.inr rfl)
    by_cases h : l + 1 < c.tb + c.screenLines
    · simp [nextRow, LineInRange, TargetInRange, isDraw, isWait, h]; omega
    · simp [nextRow, LineInRange, TargetInRange, isDraw, isWait, h]; omega
  | botDraw =>
    have := hbot (.inr rfl)
    by_cases h : l + 1 < c.vres
    · simp [nextRow, LineInRange, TargetInRange, isDraw, isWait, h]; omega
    · have hlast : l + 1 = c.vres := by omega
      simp [nextRow, LineInRange, TargetInRange, isDraw, isWait, hlast]
  | blank | topWait | mainWait | botWait => cases hp

end Ranges

/-! ### The raster machine keeps the position in range -/

section Position

variable {s : State}

/-- Completing a row needs nothing of COL (R207). -/
theorem rowDone_positioned (hc : s.cfg.Admitted) (hd : s.cfg.Drawable) (hp : isDraw s.phase = true)
    (hs : Positioned s) (u : Nat) : Positioned (rowDone { s with col := u }) := by
  obtain ⟨hline, -, ⟨-, -, htarget⟩, hcarry⟩ := hs
  obtain ⟨hnodraw, hline', htarget'⟩ := nextRow_inRange hc hd hp hline
  rw [← htarget hp] at htarget'
  refine ⟨hline', ⟨fun _ => rfl, fun h => ?_⟩, htarget', hcarry⟩
  exact absurd (hnodraw.symm.trans h) (by decide)

/-- The draw loop keeps the position in range, whether it runs out of units, ends the row or stops
at a fault (R206). -/
theorem emitUnits_positioned (hc : s.cfg.Admitted) (hd : s.cfg.Drawable)
    (hp : isDraw s.phase = true) (hs : Positioned s) (k : Nat) :
    Positioned (emitUnits k s) := by
  suffices hkeeps : (emitUnits k s).cfg.Admitted ∧ (emitUnits k s).cfg.Drawable ∧
      Positioned (emitUnits k s) by
    obtain ⟨-, -, hpositioned⟩ := hkeeps
    exact hpositioned
  refine emitUnits_keeps (P := fun s => s.cfg.Admitted ∧ s.cfg.Drawable ∧ Positioned s)
    (fun t _ ht => ?_) (fun t hdraw hcol ⟨hc, hd, ht⟩ => ⟨hc, hd, ?_⟩)
    (fun t hdraw ⟨hc, hd, ht⟩ => ⟨hc, hd, rowDone_positioned hc hd hdraw ht _⟩) k hp ⟨hc, hd, hs⟩
  · obtain ⟨fb, bc, f, hframe⟩ := emitUnit_frame t
    rw [hframe]; exact ht
  · obtain ⟨hline, ⟨-, hunits⟩, htarget, hcarry⟩ := ht
    refine ⟨hline, ⟨fun h => ?_, fun _ => ?_⟩, htarget, hcarry⟩
    · exact absurd (h.symm.trans hdraw) (by decide)
    · exact Nat.lt_of_le_of_ne (hunits hdraw) hcol

theorem ofNat_mod_four_lt (x : Nat) : (BitVec.ofNat 32 (x % 4)).toNat < 4 := by
  rw [BitVec.toNat_ofNat]
  omega

/-- The count of the next boundary, one line further (R205), does not wrap (W5). -/
theorem target_add_cpl_toNat (hc : s.cfg.Admitted) (hl : s.line < s.cfg.vres)
    (ht : s.target.toNat = s.cfg.rowStart s.line) :
    (s.target + BitVec.ofNat 32 s.cfg.cpl).toNat = s.cfg.rowStart (s.line + 1) := by
  have hfits := rowStart_lt hc (r := s.line + 1) hl
  rw [rowStart_succ, ← ht] at hfits ⊢
  exact cyc_add_toNat hfits

theorem drawStart_positioned (n : Nat) (hs : Positioned s) :
    Positioned (drawStart n s) := by
  obtain ⟨hline, hcol, htarget, -⟩ := hs
  exact ⟨hline, hcol, htarget, ofNat_mod_four_lt _⟩

theorem crossStart_positioned (hc : s.cfg.Admitted) (hd : s.cfg.Drawable)
    (hp : isWait s.phase = true) (n : Nat) (v : Bool) (hs : Positioned s) :
    Positioned (crossStart n v s) := by
  obtain ⟨hline, -, ⟨-, htarget, -⟩, -⟩ := hs
  have hdraw := isDraw_drawOf hp
  have hline' := lineInRange_drawOf hp hline
  refine ⟨hline', ⟨fun _ => rfl, fun _ => hd.2⟩, ⟨fun h => ?_, fun h => ?_, fun _ => ?_⟩,
    ofNat_mod_four_lt _⟩
  · exact absurd (h ▸ hdraw : isDraw .blank = true) (by decide)
  · exact absurd (hdraw.symm.trans (isWait_not_isDraw h)) (by decide)
  · exact target_add_cpl_toNat hc (line_lt_vres hc hdraw hline') (htarget hp)

/-- The first row of a frame is waited for at FIRST_THRESH (R33, R35, R203). -/
theorem frameStart_positioned (hc : s.cfg.Admitted) (n : Nat) (hs : Positioned s) :
    Positioned
      { s with
        cyc := s.cyc + BitVec.ofNat 32 n
        line := 0
        col := 0
        target := BitVec.ofNat 32 s.cfg.firstThresh
        phase := .topWait } := by
  obtain ⟨-, -, -, hcarry⟩ := hs
  have hstart : (BitVec.ofNat 32 s.cfg.firstThresh).toNat = s.cfg.rowStart 0 := by
    have hfits := rowStart_lt hc (Nat.zero_le _)
    simp only [Cfg.rowStart, Nat.zero_mul, Nat.add_zero] at hfits ⊢
    rw [BitVec.toNat_ofNat, Nat.mod_eq_of_lt hfits]
  obtain ⟨-, ⟨-, htb, -⟩, -⟩ := hc
  exact ⟨⟨fun _ => rfl, fun _ => htb, by simp, by simp⟩, ⟨fun _ => rfl, nofun⟩,
    ⟨nofun, fun _ => hstart, nofun⟩, hcarry⟩

/-- ADVANCE keeps the position in range (R54): a crossing that finds OSD_VISIBLE unwritten leaves
TARGET one line ahead, but faulted. -/
theorem advance_positionOk (hc : s.cfg.Admitted) (hd : s.cfg.Drawable) (n : Nat)
    (hf : s.fault = none) (hs : s.PositionOk) : (advance n s).PositionOk := by
  have hs' (hv : s.vstat = .ready) : Positioned s := (positionOk_iff s).mp hs ⟨hv, hf⟩
  generalize hanswer : advance n s = t
  cases advance_cases hf hanswer with
  | notReady | overflow | unlatched => exact fun hrunning => nomatch hrunning.2
  | frameStart hv => exact fun _ => frameStart_positioned hc n (hs' hv)
  | counted hv => exact fun _ => hs' hv
  | crossed v hv _ hp =>
    exact fun _ => emitUnits_positioned (s := crossStart n v s) hc hd (isDraw_drawOf hp)
      (crossStart_positioned hc hd hp n v (hs' hv)) _
  | drew hv _ hp =>
    exact fun _ => emitUnits_positioned (s := drawStart n s) hc hd hp
      (drawStart_positioned n (hs' hv)) _

/-- A change that leaves the position alone and clears no fault keeps the position invariant. -/
theorem positionOk_of_unmoved {t : State} (hcfg : t.cfg = s.cfg) (hv : t.vstat = s.vstat)
    (hf : t.fault = none → s.fault = none) (hphase : t.phase = s.phase) (hline : t.line = s.line)
    (hcol : t.col = s.col) (htarget : t.target = s.target) (hcarry : t.carry = s.carry)
    (hs : s.PositionOk) : t.PositionOk := by
  intro ⟨hready, hfault⟩
  rw [hcfg, hphase, hline, hcol, htarget, hcarry]
  exact hs ⟨hv ▸ hready, hf hfault⟩

/-- INIT and RESET leave BLANK at row 0, or a block that is not READY (R261, R263, R331). -/
theorem initialise_positionOk (ha : s.configs.admitted = true) (m : Mode) :
    (initialise m s).PositionOk := by
  cases halloc : s.allocOk with
  | false => rw [initialise_failed halloc]; exact fun hrunning => nomatch hrunning.1
  | true =>
    rw [initialise_succeeded halloc]
    have hc : (s.configs.select m).Admitted := Configs.admitted_select ha m
    refine fun _ => ⟨⟨fun _ => rfl, nofun, nofun, nofun⟩, ⟨fun _ => rfl, nofun⟩,
      ⟨fun _ => .inl ?_, nofun, nofun⟩, Nat.zero_lt_succ 3⟩
    have hfits := rowStart_lt hc (Nat.zero_le _)
    simp only [Cfg.rowStart, Nat.zero_mul, Nat.add_zero] at hfits ⊢
    exact Nat.mod_eq_of_lt hfits

end Position

theorem advance_rasterOk (n : Nat) (s : State) (hf : s.fault = none) (hs : RasterOk s) :
    RasterOk (advance n s) := by
  obtain ⟨ha, hd, hpos⟩ := hs
  have hconfigs : (advance n s).configs = s.configs := by
    obtain ⟨p, l, u, ta, ca, cy, o, fb, bc, f, hframe⟩ := advance_frame n s
    rw [hframe]
  refine ⟨hconfigs ▸ ha, hconfigs ▸ hd, ?_⟩
  exact advance_positionOk (Configs.admitted_select ha _) (Configs.Drawable.select hd _) n hf hpos

theorem exec_rasterOk (i : Instr) (s t : State) (hs : RasterOk s)
    (h : exec i s = .next t) : RasterOk t := by
  obtain ⟨-, rfl⟩ | ⟨hf, hbody⟩ := exec_next_cases h
  · exact hs
  have moved (hm : ¬ IsModeCommand i) (hadv : ∀ n, i ≠ .advance n) (hflush : i ≠ .flush) :
      RasterOk t := by
    obtain ⟨ha, hd, hpos⟩ := hs
    have hconfigs := exec_configs h
    obtain ⟨hmode, hvstat, -⟩ := exec_tables h hm
    obtain ⟨hphase, hline, hcol, htarget, hcarry, -⟩ := exec_raster h hm hadv hflush
    exact ⟨hconfigs ▸ ha, hconfigs ▸ hd, positionOk_of_unmoved (State.cfg_congr hmode hconfigs)
      hvstat (exec_fault_none h) hphase hline hcol htarget hcarry hpos⟩
  have initialised (m : Mode) (ht : t = initialise m s) : RasterOk t := by
    obtain ⟨ha, hd, -⟩ := hs
    have hconfigs := exec_configs h
    exact ⟨hconfigs ▸ ha, hconfigs ▸ hd, ht ▸ initialise_positionOk ha m⟩
  cases i with
  | init m a => exact initialised ⟨m, a⟩ hbody
  | reset m a => exact initialised ⟨m, a⟩ hbody
  | advance n => exact hbody ▸ advance_rasterOk _ s hf hs
  | flush => exact hbody ▸ flush_keeps advance_rasterOk hf hs
  | sample | setBorder | setOverlay | setFlash | setLatch | setCycles | frameWrap | poke =>
    exact moved id nofun nofun

/-- Settles O54: every command keeps the invariant together with the configurations it rests on, by
the cases of ADVANCE and the induction over the units it draws; the rest of a step moves nothing. -/
theorem everyStepKeepsThePosition : Obligations.EveryStepKeepsThePosition := by
  intro s t hd hpos h
  suffices hkept : RasterOk t by
    obtain ⟨-, hdrawable, hposition⟩ := hkept
    exact ⟨hposition, hdrawable⟩
  refine step_keeps (fun _ _ hs => hs) exec_rasterOk (fun s ⟨ha, hd, _⟩ => ⟨ha, hd, ?_⟩)
    (fun _ hs => hs) (fun _ _ _ _ hs => hs) ⟨step_next_admitted h, hd, hpos⟩ h
  exact fun hrunning => nomatch hrunning.2

/-! ### The tables (R43, R98, R147, R166) -/

section Bcache

variable {P : List Byte → Prop}
  (hset : ∀ bc r (col : Colour), P bc → P (bc.set r (col.setWidth 8)))

include hset

/-- The one write to BCACHE: a border unit's colour at its row (R213). -/
theorem emitUnit_keeps_bcache (s : State) (hs : P s.bcache) : P (emitUnit s).bcache := by
  rw [emitUnit]
  split
  · exact hs
  split
  · obtain ⟨fb, f, hframe⟩ := screenUnit_frame s.line s.col s
    rw [hframe]; exact hs
  rw [borderUnit, readBorder]
  cases s.border with
  | none => exact hs
  | some col =>
    obtain ⟨fb, f, hframe⟩ := writePair_frame s.line s.col (borderWordAt s.borderWord col)
      (borderWordAt s.borderWord col) s
    rw [readInput_some]
    dsimp only
    rw [hframe, andThen]
    split
    · exact hs
    · exact hset _ _ col hs

theorem advance_keeps_bcache (n : Nat) (s : State) (hf : s.fault = none) (hs : P s.bcache) :
    P (advance n s).bcache := by
  have drawn (k : Nat) (t : State) (hp : isDraw t.phase = true) (ht : P t.bcache) :
      P (emitUnits k t).bcache :=
    emitUnits_keeps (P := fun s => P s.bcache) (fun s _ => emitUnit_keeps_bcache hset s)
      (fun _ _ _ ht => ht) (fun _ _ ht => ht) k hp ht
  generalize hanswer : advance n s = t
  cases advance_cases hf hanswer with
  | notReady | overflow | frameStart | counted | unlatched => exact hs
  | crossed v _ _ hp => exact drawn _ _ (isDraw_drawOf hp) hs
  | drew _ _ hp => exact drawn _ _ hp hs

/-- Outside INIT and RESET, every command keeps what a border colour written to BCACHE keeps. -/
theorem exec_keeps_bcache {i : Instr} {s t : State} (h : exec i s = .next t)
    (hm : ¬ IsModeCommand i) (hs : P s.bcache) : P t.bcache := by
  obtain ⟨-, rfl⟩ | ⟨hf, hbody⟩ := exec_next_cases h
  · exact hs
  have unmoved (ha : ∀ n, i ≠ .advance n) (hflush : i ≠ .flush) : P t.bcache := by
    obtain ⟨-, -, -, -, -, -, hbcache⟩ := exec_raster h hm ha hflush
    exact hbcache ▸ hs
  cases i with
  | init | reset => exact absurd trivial hm
  | advance n => exact hbody ▸ advance_keeps_bcache hset _ s hf hs
  | flush =>
    exact hbody ▸ flush_keeps (P := fun s => P s.bcache) (advance_keeps_bcache hset) hf hs
  | sample | setBorder | setOverlay | setFlash | setLatch | setCycles | frameWrap | poke =>
    exact unmoved nofun nofun

end Bcache

/-- BCACHE has one entry per frame-buffer row, each a colour or the sentinel (R43). -/
def BcacheOk (c : Cfg) (bc : List Byte) : Prop := bc.length = c.vres ∧ ∀ e ∈ bc, BcacheEntryOk e

theorem bcacheOk_set {c : Cfg} (bc : List Byte) (r : Nat) (col : Colour) (h : BcacheOk c bc) :
    BcacheOk c (bc.set r (col.setWidth 8)) := by
  obtain ⟨hlength, hentries⟩ := h
  refine ⟨by rw [List.length_set, hlength], fun e he => ?_⟩
  obtain he | rfl := List.mem_or_eq_of_mem_set he
  · exact hentries e he
  · have := col.isLt
    refine .inl ?_
    rw [BitVec.toNat_setWidth]
    omega

theorem bcacheOk_invalid (c : Cfg) : BcacheOk c (invalidBcache c) :=
  ⟨invalidBcache_length c, fun _ he => .inr (List.eq_of_mem_replicate he)⟩

theorem initialise_tablesOk (m : Mode) (s : State) : (initialise m s).TablesOk := by
  cases halloc : s.allocOk with
  | false => rw [initialise_failed halloc]; exact nofun
  | true =>
    rw [initialise_succeeded halloc]
    exact fun _ => ⟨rfl, rfl, rfl, rfl, rfl, bcacheOk_invalid _⟩

theorem exec_tablesOk (i : Instr) (s t : State) (hs : s.TablesOk) (h : exec i s = .next t) :
    t.TablesOk := by
  obtain ⟨-, rfl⟩ | ⟨-, hbody⟩ := exec_next_cases h
  · exact hs
  have kept (hm : ¬ IsModeCommand i) : t.TablesOk := by
    obtain ⟨hmode, hvstat, hpalette, halu, hbmp, hattr, hborder⟩ := exec_tables h hm
    intro hready
    obtain ⟨h1, h2, h3, h4, h5, hbcache⟩ := hs (hvstat ▸ hready)
    rw [State.cfg_congr hmode (exec_configs h), hpalette, halu, hbmp, hattr, hborder]
    exact ⟨h1, h2, h3, h4, h5, exec_keeps_bcache bcacheOk_set h hm hbcache⟩
  cases i with
  | init m a => exact hbody ▸ initialise_tablesOk ⟨m, a⟩ s
  | reset m a => exact hbody ▸ initialise_tablesOk ⟨m, a⟩ s
  | advance | flush | sample | setBorder | setOverlay | setFlash | setLatch | setCycles
  | frameWrap | poke => exact kept id

/-- Settles O55: INIT and RESET build the tables, no other command writes one but BCACHE, and BCACHE
only takes border colours. -/
theorem everyStepKeepsTheTables : Obligations.EveryStepKeepsTheTables := fun _ _ hs h =>
  step_keeps (fun _ _ hs => hs) exec_tablesOk (fun _ hs => hs) (fun _ hs => hs)
    (fun _ _ _ _ hs => hs) hs h

/-! ### The moves of PHASE and OSD_ACTIVE (R200, R205, R212) -/

theorem nextRow_mem_rowSuccessors {p : Phase} (hp : isDraw p = true) (c : Cfg) (l : Nat) :
    (nextRow c p l).1 ∈ rowSuccessors p := by
  cases p with
  | topDraw => by_cases h : l < c.tb <;> simp [nextRow, rowSuccessors, h]
  | mainDraw => by_cases h : l < c.tb + c.screenLines <;> simp [nextRow, rowSuccessors, h]
  | botDraw => by_cases h : l < c.vres <;> simp [nextRow, rowSuccessors, h]
  | blank | topWait | mainWait | botWait => cases hp

/-- The draw loop stays in its draw sub-state or goes to a successor of the completed row (R206). -/
theorem emitUnits_phase {s : State} (hp : isDraw s.phase = true) (k : Nat) :
    (emitUnits k s).phase = s.phase ∨ (emitUnits k s).phase ∈ rowSuccessors s.phase := by
  induction k generalizing s with
  | zero => exact .inl rfl
  | succ k ih =>
    obtain ⟨fb, bc, f, hframe⟩ := emitUnit_frame s
    rw [emitUnits, hframe, andThen]
    split
    · exact .inl rfl
    · dsimp only
      split
      · exact .inr (nextRow_mem_rowSuccessors hp _ _)
      · exact ih hp

/-- Settles O35: ADVANCE by its cases, every other command by the writers of PHASE. -/
theorem phaseMovesOnlyAsListed : Obligations.PhaseMovesOnlyAsListed := by
  constructor
  · intro s t n h
    obtain ⟨-, rfl⟩ | ⟨hf, hbody⟩ := exec_next_cases h
    · exact .inl rfl
    cases advance_cases hf hbody.symm with
    | notReady | overflow | counted | unlatched => exact .inl rfl
    | frameStart _ _ hp => exact .inr (.inl ⟨hp, rfl⟩)
    | crossed v _ _ hp =>
      exact .inr (.inr (.inl ⟨hp, emitUnits_phase (s := crossStart _ v s) (isDraw_drawOf hp) _⟩))
    | drew _ _ hp =>
      obtain hsame | hnext := emitUnits_phase (s := drawStart (zextCount n).toNat s) hp
        (((zextCount n).toNat + s.carry.toNat) / 4)
      · exact .inl hsame
      · exact .inr (.inr (.inr ⟨hp, hnext⟩))
  · intro i s t h ha hflush hm
    obtain ⟨hphase, -⟩ := exec_raster h hm ha hflush
    exact hphase

@[simp] theorem emitUnits_osdActive (k : Nat) (s : State) :
    (emitUnits k s).osdActive = s.osdActive := by
  obtain ⟨p, l, u, fb, bc, f, hframe⟩ := emitUnits_frame k s
  rw [hframe]

/-- Settles O36: of the cases of ADVANCE only the crossing writes OSD_ACTIVE, before it draws. -/
theorem variantIsLatchedAtCrossings : Obligations.VariantIsLatchedAtCrossings := by
  constructor
  · intro i s t h hflush hm hchanged
    obtain ⟨-, rfl⟩ | ⟨hf, hbody⟩ := exec_next_cases h
    · exact absurd rfl hchanged
    by_cases hadvance : ∃ n, i = .advance n
    · obtain ⟨n, rfl⟩ := hadvance
      cases advance_cases hf hbody.symm with
      | notReady | overflow | frameStart | counted | unlatched => exact absurd rfl hchanged
      | crossed v _ _ hp _ ho =>
        rw [emitUnits_osdActive]
        exact ⟨hp, ho, n, rfl⟩
      | drew => rw [emitUnits_osdActive] at hchanged; exact absurd rfl hchanged
    · obtain ⟨-, -, -, -, -, hosd, -⟩ := exec_raster h hm (not_exists.mp hadvance) hflush
      exact absurd hosd hchanged
  · intro s t n v ⟨hv, hf⟩ hp hn ht ho h
    rw [exec_advance hf, advance_cross hf hv hn hp ht ho] at h
    rw [← Host.Outcome.next.inj h, emitUnits_osdActive]
    rfl

end Sys2Proof

/-! PROOFS. The statements of spec/10_state.md, third part: FB and BCACHE are never read. Two runs
from states that differ in FB and BCACHE only are followed side by side. -/

namespace Sys2Proof

open Sys2Proof.Machine Sys2Proof.Claims

/-! ### Two states that differ in FB and BCACHE only -/

/-- The state with other contents of FB and BCACHE. -/
def withScreen (s : State) (fb : FrameBuffer) (bc : List Byte) : State :=
  { s with fb := fb, bcache := bc }

/-- `t` and `t'` are what two runs have reached that began with FB and BCACHE at `fb`, `bc` and at
`fb'`, `bc'`: they differ in FB and BCACHE only, neither of the two has reached the other, and each
word was written alike or left by both. -/
structure Alike (fb fb' : FrameBuffer) (bc bc' : List Byte) (t t' : State) : Prop where
  same : t' = withScreen t t'.fb t'.bcache
  fbAlone : fb' = fb → t'.fb = t.fb
  bcacheAlone : bc' = bc → t'.bcache = t.bcache
  words : ∀ r j, FrameBuffer.read t'.fb r j = FrameBuffer.read t.fb r j ∨
    (FrameBuffer.read t'.fb r j = FrameBuffer.read fb' r j ∧
      FrameBuffer.read t.fb r j = FrameBuffer.read fb r j)

/-- Taking states that differ in FB and BCACHE only to such states. -/
def Blind (f : State → State) : Prop :=
  ∀ (s : State) (fb : FrameBuffer) (bc : List Byte),
    Alike s.fb fb s.bcache bc (f s) (f (withScreen s fb bc))

/-- A change to other elements than FB and BCACHE is made alike in both runs. -/
theorem alike_withScreen (t : State) (fb : FrameBuffer) (bc : List Byte) :
    Alike t.fb fb t.bcache bc t (withScreen t fb bc) :=
  ⟨rfl, id, id, fun _ _ => .inr ⟨rfl, rfl⟩⟩

section Alike

variable {fb fb' : FrameBuffer} {bc bc' : List Byte} {t t' u u' : State}

theorem Alike.trans (h : Alike fb fb' bc bc' t t')
    (hnext : Alike t.fb t'.fb t.bcache t'.bcache u u') : Alike fb fb' bc bc' u u' := by
  refine ⟨hnext.same, fun e => hnext.fbAlone (h.fbAlone e),
    fun e => hnext.bcacheAlone (h.bcacheAlone e), fun r j => ?_⟩
  obtain hnow | ⟨hkept', hkept⟩ := hnext.words r j
  · exact .inl hnow
  · rw [hkept', hkept]
    exact h.words r j

theorem Alike.apply (h : Alike fb fb' bc bc' t t') {f : State → State} (hf : Blind f) :
    Alike fb fb' bc bc' (f t) (f t') := by
  refine h.trans ?_
  have hstep := hf t t'.fb t'.bcache
  rwa [← h.same] at hstep

theorem Alike.andThen (h : Alike fb fb' bc bc' t t') {f : State → State} (hf : Blind f) :
    Alike fb fb' bc bc' (andThen t f) (andThen t' f) := by
  have hfault : t'.fault = t.fault := by rw [h.same]; rfl
  cases hk : t.fault with
  | none => rw [andThen_running hk, andThen_running (hfault.trans hk)]; exact h.apply hf
  | some k => rw [andThen_stopped hk, andThen_stopped (hfault.trans hk)]; exact h

theorem Alike.ite {c : Prop} [Decidable c] (h : Alike fb fb' bc bc' t t')
    (h' : Alike fb fb' bc bc' u u') :
    Alike fb fb' bc bc' (if c then t else u) (if c then t' else u') := by
  split
  · exact h
  · exact h'

end Alike

theorem raise_blind (k : FaultKind) : Blind (raise k) := fun s fb bc =>
  alike_withScreen (raise k s) fb bc

theorem emit_blind (v : Byte) : Blind (emit v) := fun s fb bc => alike_withScreen (emit v s) fb bc

/-- A read of an input goes the same way in both runs (R46). -/
theorem alike_readInput {α : Type} (i : Input) (value : Option α) (s : State) (fb : FrameBuffer)
    (bc : List Byte) {use use' : α → State}
    (h : ∀ v, Alike s.fb fb s.bcache bc (use v) (use' v)) :
    Alike s.fb fb s.bcache bc (readInput i value s use)
      (readInput i value (withScreen s fb bc) use') := by
  cases value with
  | none => exact raise_blind _ s fb bc
  | some v => exact h v

/-! ### The line writer (R84, R208 to R211) -/

theorem fbWrite_blind (r j : Nat) (w : Word) : Blind (fbWrite r j w) := by
  intro s fb bc
  refine Alike.ite ⟨rfl, fun h => h ▸ rfl, id, fun r' j' => ?_⟩ (raise_blind _ s fb bc)
  by_cases hword : r' = r ∧ j' = j
  · obtain ⟨rfl, rfl⟩ := hword
    exact .inl ((FrameBuffer.read_write_same ..).trans (FrameBuffer.read_write_same ..).symm)
  · exact .inr ⟨FrameBuffer.read_write_other _ _ hword, FrameBuffer.read_write_other _ _ hword⟩

theorem writePair_blind (r u : Nat) (w0 w1 : Word) : Blind (writePair r u w0 w1) := fun s fb bc =>
  (fbWrite_blind r _ w0 s fb bc).andThen (fbWrite_blind r _ w1)

theorem cacheBorder_blind (r : Nat) (col : Colour) : Blind (cacheBorder r col) := fun _ _ _ =>
  ⟨rfl, id, fun h => h ▸ rfl, fun _ _ => .inr ⟨rfl, rfl⟩⟩

theorem borderUnit_blind (r u : Nat) : Blind (borderUnit r u) := fun s fb bc =>
  alike_readInput _ _ s fb bc fun col =>
    (writePair_blind r u _ _ s fb bc).andThen (cacheBorder_blind r col)

theorem screenUnit_blind (r u : Nat) : Blind (screenUnit r u) := fun s fb bc =>
  alike_readInput _ _ s fb bc fun _ => Alike.ite
    (alike_readInput _ _ s fb bc fun _ => writePair_blind r u _ _ s fb bc)
    (writePair_blind r u _ _ s fb bc)

theorem emitUnit_blind : Blind emitUnit := fun s fb bc =>
  Alike.ite (alike_withScreen s fb bc) <|
    Alike.ite (screenUnit_blind s.line s.col s fb bc) (borderUnit_blind s.line s.col s fb bc)

/-! ### The raster machine (R202 to R207, R217) -/

theorem rowDone_blind : Blind rowDone := fun s fb bc => alike_withScreen (rowDone s) fb bc

theorem emitUnits_blind (k : Nat) : Blind (emitUnits k) := by
  induction k with
  | zero => exact alike_withScreen
  | succ k ih =>
    refine fun s fb bc => (emitUnit_blind s fb bc).andThen fun t fb bc => ?_
    exact Alike.ite (rowDone_blind { t with col := t.col + 1 } fb bc)
      (ih { t with col := t.col + 1 } fb bc)

theorem drawBody_blind (b : Nat) : Blind (drawBody b) := fun s fb bc =>
  emitUnits_blind _ { s with carry := BitVec.ofNat 32 ((b + s.carry.toNat) % 4) } fb bc

theorem blankStep_blind : Blind blankStep := fun s fb bc =>
  Alike.ite (alike_withScreen { s with
    line := 0, col := 0, target := BitVec.ofNat 32 s.cfg.firstThresh, phase := .topWait } fb bc)
    (alike_withScreen s fb bc)

theorem latchVariant_blind : Blind latchVariant := fun s fb bc =>
  alike_readInput _ _ s fb bc fun v => alike_withScreen { s with osdActive := v } fb bc

theorem crossBoundary_blind : Blind crossBoundary := fun s fb bc =>
  (latchVariant_blind { s with
    carry := s.cyc - s.target, target := s.target + BitVec.ofNat 32 s.cfg.cpl, col := 0 } fb
    bc).andThen fun t fb bc => drawBody_blind 0 { t with phase := drawOf t.phase } fb bc

theorem waitStep_blind : Blind waitStep := fun s fb bc =>
  Alike.ite (alike_withScreen s fb bc) (crossBoundary_blind s fb bc)

theorem phaseStep_blind (n : Nat) : Blind (phaseStep n) := by
  intro s fb bc
  obtain hp | hp | hp := phase_cases s.phase
  · rw [phaseStep_blank hp, phaseStep_blank (s := withScreen s fb bc) hp]
    exact blankStep_blind s fb bc
  · rw [phaseStep_wait hp, phaseStep_wait (s := withScreen s fb bc) hp]
    exact waitStep_blind s fb bc
  · rw [phaseStep_draw hp, phaseStep_draw (s := withScreen s fb bc) hp]
    exact drawBody_blind n s fb bc

theorem advance_blind (n : Nat) : Blind (advance n) := fun s fb bc =>
  Alike.ite (raise_blind _ s fb bc) <|
    Alike.ite (raise_blind _ s fb bc) (phaseStep_blind n (countCycles n s) fb bc)

theorem flushPasses_blind (k : Nat) : Blind (flushPasses k) := by
  induction k with
  | zero => exact alike_withScreen
  | succ k ih =>
    exact fun s fb bc => Alike.ite ((advance_blind _ s fb bc).andThen ih) (alike_withScreen s fb bc)

theorem flush_blind : Blind flush := fun s fb bc =>
  Alike.ite (raise_blind _ s fb bc) (flushPasses_blind _ s fb bc)

/-! ### The other commands -/

theorem emitFetched_blind (off : Offset) : Blind (emitFetched off) := fun s fb bc =>
  alike_readInput _ _ s fb bc fun _ => emit_blind _ s fb bc

theorem sampleSlot_blind (g phase : Nat) : Blind (sampleSlot g phase) := by
  intro s fb bc
  unfold sampleSlot
  dsimp only
  split
  · exact emitFetched_blind _ s fb bc
  · exact emitFetched_blind _ s fb bc
  · exact emitFetched_blind _ s fb bc
  · exact emitFetched_blind _ s fb bc
  · exact emit_blind _ s fb bc

theorem sampleAt_blind (c : Nat) : Blind (sampleAt c) := fun s fb bc =>
  Alike.ite (emit_blind _ s fb bc) <|
    Alike.ite (emit_blind _ s fb bc) (sampleSlot_blind _ _ s fb bc)

theorem sample_blind (n : Nat) : Blind (sample n) := fun s fb bc =>
  Alike.ite (raise_blind _ s fb bc) <|
    Alike.ite (emit_blind _ s fb bc) (sampleAt_blind _ s fb bc)

theorem frameWrap_blind : Blind frameWrap := fun s fb bc =>
  Alike.ite (raise_blind _ s fb bc) <|
    Alike.ite (raise_blind _ s fb bc)
      (alike_withScreen { s with cyc := s.cyc - BitVec.ofNat 32 s.cfg.cpf } fb bc)

/-- INIT and RESET leave FB, and set BCACHE whatever it held (R261, R263). -/
theorem initialise_blind (m : Mode) : Blind (initialise m) := fun _ _ _ =>
  Alike.ite ⟨rfl, id, fun _ => rfl, fun _ _ => .inr ⟨rfl, rfl⟩⟩
    ⟨rfl, id, fun _ => rfl, fun _ _ => .inr ⟨rfl, rfl⟩⟩

theorem commandBody_blind (i : Instr) : Blind (commandBody i) := by
  intro s fb bc
  cases i with
  | init m a => exact initialise_blind ⟨m, a⟩ s fb bc
  | reset m a => exact initialise_blind ⟨m, a⟩ s fb bc
  | advance n => exact advance_blind _ s fb bc
  | flush => exact flush_blind s fb bc
  | sample n => exact sample_blind _ s fb bc
  | setBorder c => exact alike_withScreen { s with border := some c } fb bc
  | setOverlay v => exact alike_withScreen { s with osdVisible := some v } fb bc
  | setFlash v => exact alike_withScreen { s with flash := some v } fb bc
  | setLatch v => exact alike_withScreen { s with latch := some v } fb bc
  | setCycles n => exact alike_withScreen { s with cyc := zextCount n } fb bc
  | frameWrap => exact frameWrap_blind s fb bc
  | poke b o d => exact alike_withScreen { s with vram := Memory.write s.vram b o d } fb bc

/-- Settles O52: every command, built from the operations above, is blind to FB and BCACHE. -/
theorem frameBufferAndCacheAreNeverRead : Obligations.FrameBufferAndCacheAreNeverRead := by
  intro i s t fb bc h
  obtain rfl : andThen s (commandBody i) = t := by
    rw [exec_eq_applyCommand] at h
    exact Host.Outcome.next.inj h
  have halike := (alike_withScreen s fb bc).andThen (commandBody_blind i)
  refine ⟨_, _, ?_, halike.fbAlone, halike.bcacheAlone, halike.words⟩
  exact (exec_eq_applyCommand i _).trans (congrArg Host.Outcome.next halike.same)

end Sys2Proof

/-! PROOFS. The statements of spec/10_state.md, fourth part: reading an input that holds no value
stops ADVANCE at that read. What one unit does comes first, painted or stopped, then what a run of
painted units leaves, then the state an ADVANCE starts to draw from. -/

namespace Sys2Proof

open Sys2Proof.Machine Sys2Proof.Claims

/-! ### One unit (R208 to R211) -/

theorem skipped_iff (s : State) (r u : Nat) :
    s.skipped r u = true ↔ Skipped s.cfg s.osdActive s.phase r u := by
  have hvariant : hasOverlayVariant s.phase = true ↔ s.phase = .mainDraw ∨ s.phase = .botDraw := by
    cases s.phase <;> decide
  simp only [State.skipped, Cfg.inOverlay, Bool.and_eq_true, decide_eq_true_eq, hvariant, Skipped,
    and_assoc]

theorem isScreenUnit_iff (s : State) (u : Nat) :
    s.isScreenUnit u = true ↔ ShowsCell s.cfg s.phase u := by
  simp only [State.isScreenUnit, Bool.and_eq_true, decide_eq_true_eq, ShowsCell, and_assoc]

/-- Unit (r, u) shows the border: it is neither skipped nor a cell (R208, R209, R211). -/
abbrev PaintsBorder (c : Cfg) (osd : Bool) (p : Phase) (r u : Nat) : Prop :=
  ¬ Skipped c osd p r u ∧ ¬ ShowsCell c p u

/-- The two words unit (r, u) writes under the input values of the state. -/
abbrev wordsDue (s : State) (osd : Bool) (p : Phase) (r u : Nat) : Option (Word × Word) :=
  unitWords s osd p (s.border.getD 0) (s.latch.getD .bank0) (s.flash.getD false) r u

/-- The frame buffer after a unit's two words are stored at words j and j + 1 of row r. -/
def storeUnit (fb : FrameBuffer) (r j : Nat) : Option (Word × Word) → FrameBuffer
  | none => fb
  | some (w0, w1) => FrameBuffer.write (FrameBuffer.write fb r j w0) r (j + 1) w1

/-- What emitting the unit at (LINE, COL) does when it finds every input it reads (R208 to R213). -/
def paintUnit (s : State) : State :=
  { s with
    fb := storeUnit s.fb s.line (s.cfg.rwo + 2 * s.col)
      (wordsDue s s.osdActive s.phase s.line s.col)
    bcache :=
      if PaintsBorder s.cfg s.osdActive s.phase s.line s.col then
        s.bcache.set s.line ((s.border.getD 0).setWidth 8)
      else s.bcache }

/-- Rows and units of the frame buffer's drawable part: both words of every unit of the row exist
(R9, R84). -/
def RowFits (s : State) : Prop := s.line < s.cfg.vres ∧ s.cfg.rwo + 2 * s.cfg.units ≤ s.cfg.wpr

theorem storeUnit_read_other {fb : FrameBuffer} {r j r' j' : Nat} (words : Option (Word × Word))
    (h : ¬ (r' = r ∧ j ≤ j' ∧ j' < j + 2)) :
    FrameBuffer.read (storeUnit fb r j words) r' j' = FrameBuffer.read fb r' j' := by
  cases words with
  | none => rfl
  | some w =>
    rw [storeUnit, FrameBuffer.read_write_other _ _ (by omega),
      FrameBuffer.read_write_other _ _ (by omega)]

theorem storeUnit_unitHolds (c : Cfg) (fb : FrameBuffer) (r u : Nat)
    (words : Option (Word × Word)) :
    UnitHolds c fb (storeUnit fb r (c.rwo + 2 * u) words) r u words := by
  cases words with
  | none => exact ⟨rfl, rfl⟩
  | some w =>
    refine ⟨?_, FrameBuffer.read_write_same ..⟩
    exact (FrameBuffer.read_write_other _ _ (by omega)).trans (FrameBuffer.read_write_same ..)

/-- Whether a unit holds its words depends on those two words only. -/
theorem unitHolds_of_reads {c : Cfg} {old old' fb fb' : FrameBuffer} {r u : Nat}
    {words : Option (Word × Word)}
    (hold : ∀ j, c.rwo + 2 * u ≤ j → j < c.rwo + 2 * u + 2 →
      FrameBuffer.read old' r j = FrameBuffer.read old r j)
    (hfb : ∀ j, c.rwo + 2 * u ≤ j → j < c.rwo + 2 * u + 2 →
      FrameBuffer.read fb' r j = FrameBuffer.read fb r j)
    (h : UnitHolds c old fb r u words) : UnitHolds c old' fb' r u words := by
  have hold0 := hold _ (Nat.le_refl _) (by omega)
  have hold1 := hold (c.rwo + 2 * u + 1) (by omega) (by omega)
  have hfb0 := hfb _ (Nat.le_refl _) (by omega)
  have hfb1 := hfb (c.rwo + 2 * u + 1) (by omega) (by omega)
  cases words with
  | none => exact ⟨hfb0.trans (h.1.trans hold0.symm), hfb1.trans (h.2.trans hold1.symm)⟩
  | some w => exact ⟨hfb0.trans h.1, hfb1.trans h.2⟩

section Unit

variable {s : State}

theorem writePair_inside {r u : Nat} (hf : s.fault = none) (hr : r < s.cfg.vres)
    (hj : s.cfg.rwo + 2 * u + 1 < s.cfg.wpr) (w0 w1 : Word) :
    writePair r u w0 w1 s =
      { s with fb := storeUnit s.fb r (s.cfg.rwo + 2 * u) (some (w0, w1)) } := by
  rw [writePair, fbWrite_inside ((State.inFrameBuffer_iff ..).mpr ⟨hr, by omega⟩)]
  refine (andThen_running (by exact hf) _).trans ?_
  exact fbWrite_inside ((State.inFrameBuffer_iff ..).mpr (by exact ⟨hr, hj⟩))

theorem emitUnit_skipped (h : Skipped s.cfg s.osdActive s.phase s.line s.col) : emitUnit s = s := by
  rw [emitUnit, if_pos ((skipped_iff ..).mpr h)]

theorem emitUnit_screen (h : ¬ Skipped s.cfg s.osdActive s.phase s.line s.col)
    (hcell : ShowsCell s.cfg s.phase s.col) : emitUnit s = screenUnit s.line s.col s := by
  rw [emitUnit, if_neg (mt (skipped_iff ..).mp h), if_pos ((isScreenUnit_iff ..).mpr hcell)]

theorem emitUnit_border (h : PaintsBorder s.cfg s.osdActive s.phase s.line s.col) :
    emitUnit s = borderUnit s.line s.col s := by
  rw [emitUnit, if_neg (mt (skipped_iff ..).mp h.1), if_neg (mt (isScreenUnit_iff ..).mp h.2)]

/-- FLASH is read only where bit 7 of the cell's colour byte is set (R210). -/
theorem withFlash_written {a : Byte} (h : a.getLsbD 7 = true → s.flash ≠ none) (p : Byte)
    (use : Byte → State) : withFlash a p s use = use (shownByte a p (s.flash.getD false)) := by
  by_cases hbit : a.getLsbD 7 = true
  · obtain ⟨f, hflash⟩ := Option.ne_none_iff_exists'.mp (h hbit)
    rw [withFlash, if_pos (by exact hbit), readFlash_written hflash, hflash, Option.getD_some]
    simp [shownByte, hbit]
  · rw [withFlash, if_neg (by exact hbit), shownByte, if_neg (fun hand => hbit hand.1)]

theorem withFlash_unwritten {a : Byte} (hbit : a.getLsbD 7 = true) (h : s.flash = none) (p : Byte)
    (use : Byte → State) : withFlash a p s use = raise (.unwrittenInput .flash) s := by
  rw [withFlash, if_pos (by exact hbit), readFlash, h, readInput_none]

/-- A unit that finds an input unwritten raises UnwrittenInput and changes nothing else (R46,
R300). -/
theorem emitUnit_blocked {i : Input}
    (h : blockedOn s s.osdActive s.phase s.line s.col = some i) :
    emitUnit s = raise (.unwrittenInput i) s := by
  rw [blockedOn] at h
  split at h
  next => cases h
  next hskip =>
  split at h
  next hcell =>
    rw [emitUnit_screen hskip hcell, screenUnit, readLatch]
    cases hlatch : s.latch with
    | none =>
      rw [hlatch] at h
      cases h
      rfl
    | some b =>
      rw [hlatch] at h
      dsimp only at h
      split at h
      next hflash =>
        cases h
        rw [readInput_some]
        exact withFlash_unwritten hflash.1 hflash.2 _ _
      next => cases h
  next hcell =>
    rw [emitUnit_border ⟨hskip, hcell⟩, borderUnit, readBorder]
    split at h
    next hborder => cases h; rw [hborder, readInput_none]
    next => cases h

/-- A border unit with BORDER written paints the colour's word twice and caches the colour (R208,
R213). -/
theorem emitUnit_paints_border (hf : s.fault = none) (hfits : RowFits s) (hu : s.col < s.cfg.units)
    (hpaints : PaintsBorder s.cfg s.osdActive s.phase s.line s.col) {col : Colour}
    (hcol : s.border = some col) : emitUnit s = paintUnit s := by
  obtain ⟨hrow, hunits⟩ := hfits
  have hwords : wordsDue s s.osdActive s.phase s.line s.col =
      some (borderWordAt s.borderWord col, borderWordAt s.borderWord col) := by
    rw [wordsDue, unitWords, if_neg hpaints.1, if_neg hpaints.2, hcol, Option.getD_some]
  rw [emitUnit_border hpaints, borderUnit, readBorder_written hcol]
  dsimp only
  rw [writePair_inside hf hrow (by omega), paintUnit, hwords, if_pos hpaints]
  refine (andThen_running (by exact hf) _).trans ?_
  rw [cacheBorder, hcol, Option.getD_some]

/-- A screen unit with LATCH written, and FLASH where the cell flashes, paints its cell
(R209, R210). -/
theorem emitUnit_paints_cell (hf : s.fault = none) (hfits : RowFits s) (hu : s.col < s.cfg.units)
    (hskip : ¬ Skipped s.cfg s.osdActive s.phase s.line s.col)
    (hcell : ShowsCell s.cfg s.phase s.col) {b : Bank} (hlatch : s.latch = some b)
    (hflash : (Memory.read s.vram b
      (attrAt s (s.line - s.cfg.tb) (s.col - s.cfg.lb))).getLsbD 7 = true → s.flash ≠ none) :
    emitUnit s = paintUnit s := by
  obtain ⟨hrow, hunits⟩ := hfits
  have hunpainted : ¬ PaintsBorder s.cfg s.osdActive s.phase s.line s.col := fun h => h.2 hcell
  rw [emitUnit_screen hskip hcell, screenUnit, readLatch_written hlatch, paintUnit,
    if_neg hunpainted, wordsDue, unitWords, if_neg hskip, if_pos hcell]
  refine (withFlash_written hflash _ _).trans ((writePair_inside hf hrow (by omega) _ _).trans ?_)
  dsimp only
  rw [show s.latch.getD .bank0 = b by rw [hlatch, Option.getD_some]]
  rfl

/-- A unit that finds every input it reads is painted (R208 to R213). -/
theorem emitUnit_unblocked (hf : s.fault = none) (hfits : RowFits s) (hu : s.col < s.cfg.units)
    (h : blockedOn s s.osdActive s.phase s.line s.col = none) : emitUnit s = paintUnit s := by
  rw [blockedOn] at h
  split at h
  next hskip =>
    rw [emitUnit_skipped hskip, paintUnit, wordsDue, unitWords, if_pos hskip,
      if_neg (fun hpaints => hpaints.1 hskip), storeUnit]
  next hskip =>
  split at h
  next hcell =>
    split at h
    next => cases h
    next b hlatch =>
    split at h
    next => cases h
    next hflash =>
      exact emitUnit_paints_cell hf hfits hu hskip hcell hlatch
        fun hbit hnone => hflash ⟨hbit, hnone⟩
  next hcell =>
    split at h
    next => cases h
    next hborder =>
      obtain ⟨col, hcol⟩ := Option.ne_none_iff_exists'.mp hborder
      exact emitUnit_paints_border hf hfits hu ⟨hskip, hcell⟩ hcol

end Unit

/-! ### A run of painted units (R206) -/

/-- The unit at COL painted and counted; the row does not end. -/
def paintNext (s : State) : State := { paintUnit s with col := s.col + 1 }

@[simp] theorem paintNext_line (s : State) : (paintNext s).line = s.line := rfl
@[simp] theorem paintNext_col (s : State) : (paintNext s).col = s.col + 1 := rfl
@[simp] theorem paintNext_cfg (s : State) : (paintNext s).cfg = s.cfg := rfl

theorem paintNext_read_other {s : State} {r j : Nat}
    (h : ¬ (r = s.line ∧ s.cfg.rwo + 2 * s.col ≤ j ∧ j < s.cfg.rwo + 2 * s.col + 2)) :
    FrameBuffer.read (paintNext s).fb r j = FrameBuffer.read s.fb r j :=
  storeUnit_read_other _ h

theorem paintNext_bcache_set {s : State}
    (h : PaintsBorder s.cfg s.osdActive s.phase s.line s.col) :
    (paintNext s).bcache = s.bcache.set s.line ((s.border.getD 0).setWidth 8) := if_pos h

theorem paintNext_bcache_kept {s : State}
    (h : ¬ PaintsBorder s.cfg s.osdActive s.phase s.line s.col) :
    (paintNext s).bcache = s.bcache := if_neg h

/-- A unit short of the row's end that finds its inputs is painted, and the loop goes on. -/
theorem emitUnits_unblocked (k : Nat) {s : State} (hf : s.fault = none) (hfits : RowFits s)
    (hend : s.col + 1 < s.cfg.units)
    (h : blockedOn s s.osdActive s.phase s.line s.col = none) :
    emitUnits (k + 1) s = emitUnits k (paintNext s) := by
  rw [emitUnits, emitUnit_unblocked hf hfits (by omega) h]
  refine (andThen_running (by exact hf) _).trans (if_neg ?_)
  exact Nat.ne_of_lt hend

/-- `d` units painted from COL on, COL counting them; the row does not end. -/
def paintUnits : Nat → State → State
  | 0, s => s
  | d + 1, s => paintUnits d (paintNext s)

theorem paintUnits_frame (d : Nat) (s : State) :
    ∃ fb bc, paintUnits d s = { s with fb := fb, bcache := bc, col := s.col + d } := by
  induction d generalizing s with
  | zero => exact ⟨s.fb, s.bcache, rfl⟩
  | succ d ih =>
    obtain ⟨fb, bc, hframe⟩ := ih (paintNext s)
    refine ⟨fb, bc, ?_⟩
    rw [paintUnits, hframe, paintNext_col, Nat.add_right_comm]
    rfl

/-- Units short of the row's end that find their inputs are painted one after another, and the loop
goes on with the rest of its budget. -/
theorem emitUnits_paint (d k : Nat) {s : State} (hf : s.fault = none) (hfits : RowFits s)
    (hend : s.col + d < s.cfg.units)
    (hfree : ∀ u, s.col ≤ u → u < s.col + d →
      blockedOn s s.osdActive s.phase s.line u = none) :
    emitUnits (d + k) s = emitUnits k (paintUnits d s) := by
  induction d generalizing s with
  | zero => rw [Nat.zero_add, paintUnits]
  | succ d ih =>
    rw [Nat.add_right_comm, paintUnits,
      emitUnits_unblocked _ hf hfits (by omega) (hfree _ (Nat.le_refl _) (by omega))]
    refine ih (s := paintNext s) hf hfits ?_ fun u hlo hhi => ?_
    · rw [paintNext_col, paintNext_cfg]
      omega
    · rw [paintNext_col] at hlo hhi
      exact hfree u (by omega) (by omega)

theorem paintUnits_read_other (d : Nat) {s : State} {r j : Nat}
    (h : ¬ (r = s.line ∧ s.cfg.rwo + 2 * s.col ≤ j ∧ j < s.cfg.rwo + 2 * (s.col + d))) :
    FrameBuffer.read (paintUnits d s).fb r j = FrameBuffer.read s.fb r j := by
  induction d generalizing s with
  | zero => rfl
  | succ d ih =>
    rw [paintUnits, ih (s := paintNext s), paintNext_read_other (by omega)]
    rw [paintNext_line, paintNext_col, paintNext_cfg]
    omega

theorem paintUnits_unitHolds (d : Nat) {s : State} {u : Nat} (hlo : s.col ≤ u)
    (hhi : u < s.col + d) :
    UnitHolds s.cfg s.fb (paintUnits d s).fb s.line u
      (wordsDue s s.osdActive s.phase s.line u) := by
  induction d generalizing s with
  | zero => omega
  | succ d ih =>
    rw [paintUnits]
    obtain rfl | hlater := Nat.eq_or_lt_of_le hlo
    · refine unitHolds_of_reads (fun _ _ _ => rfl) (fun j _ hj => ?_)
        (storeUnit_unitHolds s.cfg s.fb s.line s.col _)
      refine paintUnits_read_other d (s := paintNext s) ?_
      rw [paintNext_col, paintNext_cfg]
      omega
    · refine unitHolds_of_reads (fun j hj _ => ?_) (fun _ _ _ => rfl)
        (ih (s := paintNext s) hlater (by rw [paintNext_col]; omega))
      exact (paintNext_read_other (by omega)).symm

theorem paintUnits_bcache_kept (d : Nat) {s : State}
    (h : ∀ u, s.col ≤ u → u < s.col + d →
      ¬ PaintsBorder s.cfg s.osdActive s.phase s.line u) :
    (paintUnits d s).bcache = s.bcache := by
  induction d generalizing s with
  | zero => rfl
  | succ d ih =>
    rw [paintUnits, ih (s := paintNext s) fun u hlo hhi => ?_,
      paintNext_bcache_kept (h _ (Nat.le_refl _) (by omega))]
    rw [paintNext_col] at hlo hhi
    exact h u (by omega) (by omega)

theorem paintUnits_bcache_set (d : Nat) {s : State}
    (h : ∃ u, s.col ≤ u ∧ u < s.col + d ∧ PaintsBorder s.cfg s.osdActive s.phase s.line u) :
    (paintUnits d s).bcache = s.bcache.set s.line ((s.border.getD 0).setWidth 8) := by
  induction d generalizing s with
  | zero =>
    obtain ⟨u, hlo, hhi, -⟩ := h
    omega
  | succ d ih =>
    rw [paintUnits]
    by_cases hlater : ∃ u, (paintNext s).col ≤ u ∧ u < (paintNext s).col + d ∧
        PaintsBorder s.cfg s.osdActive s.phase s.line u
    · have hset : (paintUnits d (paintNext s)).bcache =
          (paintNext s).bcache.set s.line ((s.border.getD 0).setWidth 8) :=
        ih (s := paintNext s) hlater
      by_cases hfirst : PaintsBorder s.cfg s.osdActive s.phase s.line s.col
      · rw [hset, paintNext_bcache_set hfirst, List.set_set]
      · rw [hset, paintNext_bcache_kept hfirst]
    · obtain ⟨u, hlo, hhi, hpaints⟩ := h
      have hfirst : u = s.col := by
        by_contra hne
        refine hlater ⟨u, ?_, ?_, hpaints⟩ <;> rw [paintNext_col] <;> omega
      subst hfirst
      rw [paintUnits_bcache_kept d (s := paintNext s) fun u hlo hhi hlate =>
        hlater ⟨u, hlo, hhi, hlate⟩, paintNext_bcache_set hpaints]

theorem emitUnits_blocked (k : Nat) {s : State} {i : Input}
    (h : blockedOn s s.osdActive s.phase s.line s.col = some i) :
    emitUnits (k + 1) s = raise (.unwrittenInput i) s := by
  rw [emitUnits, emitUnit_blocked h, andThen_stopped (raise_fault _ _)]

/-- The draw loop stops at the first unit that finds an input unwritten, the units before it
painted (R46, R206, R300). -/
theorem emitUnits_stops (d k : Nat) {s : State} {i : Input} (hf : s.fault = none)
    (hfits : RowFits s) (hend : s.col + d < s.cfg.units)
    (hfree : ∀ u, s.col ≤ u → u < s.col + d → blockedOn s s.osdActive s.phase s.line u = none)
    (hblocked : blockedOn s s.osdActive s.phase s.line (s.col + d) = some i) (hk : d < k) :
    emitUnits k s = raise (.unwrittenInput i) (paintUnits d s) := by
  obtain ⟨m, rfl⟩ := Nat.exists_eq_add_of_lt hk
  rw [Nat.add_assoc, emitUnits_paint d (m + 1) hf hfits hend hfree]
  refine emitUnits_blocked m ?_
  obtain ⟨fb, bc, hframe⟩ := paintUnits_frame d s
  rw [hframe]
  exact hblocked

/-! ### The state an ADVANCE starts to draw from (R202, R205, R206) -/

/-- The budget of the draw body: the overshoot at a crossing, n + CARRY in a draw sub-state. -/
def drawBudget (s : State) (n : Count) : Nat :=
  if isWait s.phase = true then cycAfter s n - s.target.toNat else n.toNat + s.carry.toNat

/-- `drawStart` and `crossStart` in one form, the draw variant being `osd`. -/
def lineStart (s : State) (n : Count) (osd : Bool) : State :=
  { s with
    cyc := BitVec.ofNat 32 (cycAfter s n)
    carry := BitVec.ofNat 32 (drawBudget s n % 4)
    target := if isWait s.phase = true then s.target + BitVec.ofNat 32 s.cfg.cpl else s.target
    osdActive := osd
    phase := drawOf s.phase }

/-- ADVANCE n reaches the draw body under draw variant `osd`. -/
def Draws (s : State) (n : Count) (osd : Bool) : Prop :=
  isDraw s.phase = true ∧ osd = s.osdActive ∨
    isWait s.phase = true ∧ s.osdVisible = some osd ∧ s.target.toNat ≤ cycAfter s n

theorem drawOf_draw {p : Phase} (h : isDraw p = true) : drawOf p = p := by
  cases p with
  | topDraw | mainDraw | botDraw => rfl
  | blank | topWait | mainWait | botWait => cases h

theorem isDraw_not_isWait {p : Phase} (h : isDraw p = true) : isWait p = false := by
  cases hw : isWait p with
  | false => rfl
  | true => exact absurd (h.symm.trans (isWait_not_isDraw hw)) (by decide)

theorem cyc_add_ofNat (s : State) (n : Count) :
    s.cyc + BitVec.ofNat 32 n.toNat = BitVec.ofNat 32 (cycAfter s n) := by
  apply BitVec.eq_of_toNat_eq
  simp

/-- CARRY at a crossing before the draw body spends it (R205). -/
theorem overshoot_eq {s : State} {n : Count} (hn : NoOverflow s n)
    (ht : s.target.toNat ≤ cycAfter s n) :
    s.cyc + BitVec.ofNat 32 n.toNat - s.target =
      BitVec.ofNat 32 (cycAfter s n - s.target.toNat) := by
  apply BitVec.eq_of_toNat_eq
  rw [overshoot_toNat hn ht, BitVec.toNat_ofNat, Nat.mod_eq_of_lt (by omega)]

section Start

variable {s : State} {n : Count} {osd : Bool}

theorem lineStart_draw (hp : isDraw s.phase = true) :
    lineStart s n s.osdActive = drawStart n.toNat s := by
  have hw := isDraw_not_isWait hp
  simp only [lineStart, drawStart, drawBudget, hw, drawOf_draw hp, cyc_add_ofNat,
    Bool.false_eq_true, if_false]

theorem lineStart_wait (hp : isWait s.phase = true) (hcol : s.col = 0) :
    lineStart s n osd = crossStart n.toNat osd s := by
  simp only [lineStart, crossStart, drawBudget, hp, hcol, cyc_add_ofNat, if_true]

/-- An ADVANCE that reaches the draw body is the draw loop on the budget's whole units. -/
theorem exec_advance_draws (hr : s.Running) (hcol : isDraw s.phase = false → s.col = 0)
    (hn : NoOverflow s n) (hd : Draws s n osd) :
    exec (.advance n) s = .next (emitUnits (drawBudget s n / 4) (lineStart s n osd)) := by
  obtain ⟨hv, hf⟩ := hr
  rw [exec_advance hf]
  obtain ⟨hp, rfl⟩ | ⟨hp, ho, ht⟩ := hd
  · rw [advance_draw hv hn hp, lineStart_draw hp, drawBudget,
      if_neg (by rw [isDraw_not_isWait hp]; decide)]
  · rw [advance_cross hf hv hn hp ht ho, lineStart_wait hp (hcol (isWait_not_isDraw hp)),
      drawBudget, if_pos hp]

theorem unitsDue_of_draws (hd : Draws s n osd) : unitsDue s n = drawBudget s n / 4 := by
  obtain ⟨hp, -⟩ | ⟨hp, -⟩ := hd
  · simp [unitsDue, drawBudget, hp, isDraw_not_isWait hp]
  · simp [unitsDue, drawBudget, hp, isWait_not_isDraw hp]

/-- The row a drawing ADVANCE works on fits the frame buffer (R33, W2, W3). -/
theorem rowFits_lineStart (hc : s.cfg.Admitted) (hl : LineInRange s.cfg s.phase s.line)
    (hd : Draws s n osd) : RowFits (lineStart s n osd) := by
  have hunits : s.cfg.rwo + 2 * s.cfg.units ≤ s.cfg.wpr := by
    obtain ⟨-, -, h3, -⟩ := hc
    exact h3
  refine ⟨?_, hunits⟩
  obtain ⟨hp, -⟩ | ⟨hp, -⟩ := hd
  · exact line_lt_vres hc hp hl
  · exact line_lt_vres hc (isDraw_drawOf hp) (lineInRange_drawOf hp hl)

end Start

/-! ### The statement -/

/-- An ADVANCE whose first unit finds an input unwritten writes CYC and CARRY and stops (R300). -/
theorem exec_advance_blocked {s : State} {n : Count} {i : Input} (hr : s.Running)
    (hp : isDraw s.phase = true) (hn : NoOverflow s n) (hbudget : 4 ≤ n.toNat + s.carry.toNat)
    (h : blockedOn s s.osdActive s.phase s.line s.col = some i) :
    exec (.advance n) s = .next
      { s with
        cyc := BitVec.ofNat 32 (cycAfter s n)
        carry := BitVec.ofNat 32 ((n.toNat + s.carry.toNat) % 4)
        fault := some (.unwrittenInput i) } := by
  obtain ⟨hv, hf⟩ := hr
  obtain ⟨k, hk⟩ := Nat.exists_eq_add_of_le' (show 1 ≤ (n.toNat + s.carry.toNat) / 4 by omega)
  rw [exec_advance hf, advance_draw hv hn hp, hk, emitUnits_blocked (s := drawStart n.toNat s) k h,
    ← cyc_add_ofNat]
  rfl

/-- Settles O11: the read of OSD_VISIBLE stands between the crossing's writes, the reads of BORDER,
LATCH and FLASH before the unit's; the units before the stopped one are painted. -/
theorem unwrittenInputStopsAdvance : Obligations.UnwrittenInputStopsAdvance := by
  refine ⟨fun s n ⟨hv, hf⟩ hp hn ht ho => ?_, fun s n hr hp hn hbudget hskip => ?_,
    fun s n osd u i hr ha hd hpos hn hdraws hlo hhi hfree hblocked => ?_⟩
  · rw [exec_advance hf, advance_cross_unlatched hv hn hp ht ho, overshoot_eq hn ht,
      cyc_add_ofNat]
  · have stops (i : Input) := exec_advance_blocked (i := i) hr hp hn hbudget
    refine ⟨fun hcell hborder => stops _ ?_, fun hcell hlatch => stops _ ?_,
      fun b hcell hlatch hflash hbit => stops _ ?_⟩
    · rw [blockedOn, if_neg hskip, if_neg hcell, if_pos hborder]
    · rw [blockedOn, if_neg hskip, if_pos hcell, hlatch]
    · rw [blockedOn, if_neg hskip, if_pos hcell, hlatch]
      exact if_pos ⟨hbit, hflash⟩
  · obtain ⟨hline, ⟨hcol, -⟩, -⟩ := hpos hr
    have hc : s.cfg.Admitted := Configs.admitted_select ha _
    obtain ⟨d, rfl⟩ := Nat.exists_eq_add_of_le hlo
    rw [unitsEnd, unitsDue_of_draws hdraws, Nat.lt_min] at hhi
    obtain ⟨hdue, hend⟩ := hhi
    have hstops := emitUnits_stops d (drawBudget s n / 4) (s := lineStart s n osd) hr.2
      (rowFits_lineStart hc hline hdraws) hend hfree hblocked (by omega)
    refine ⟨_, (exec_advance_draws hr hcol hn hdraws).trans (congrArg _ hstops), ?_,
      fun u' hlo hhi => paintUnits_unitHolds d (s := lineStart s n osd) hlo hhi,
      fun r j h => paintUnits_read_other d (s := lineStart s n osd) h,
      paintUnits_bcache_set d (s := lineStart s n osd),
      fun h => paintUnits_bcache_kept d (s := lineStart s n osd) h⟩
    obtain ⟨fb, bc, hframe⟩ := paintUnits_frame d (lineStart s n osd)
    rw [hframe]
    rfl

end Sys2Proof

/-! PROOFS. The statements of spec/20_memory.md, first part: the two memories, what a unit writes,
and which words each command can write. What emitting a unit can do is said once, as `EmitCase`; the
rest follows from what survives the writes of a row, `Survives`. -/

namespace Sys2Proof

open Sys2Proof.Machine Sys2Proof.Claims

/-! ### Single writes (R81, R84, R86 to R88, R270) -/

/-- Settles O48: the write goes to one word behind the test of R84. -/
theorem fbWriteChecksItsBounds : Obligations.FbWriteChecksItsBounds := by
  intro s r j w
  constructor
  · intro hin
    dsimp only
    rw [fbWrite_inside ((State.inFrameBuffer_iff ..).mpr hin)]
    exact ⟨rfl, FrameBuffer.read_write_same .., fun r' j' => FrameBuffer.read_write_other _ _⟩
  · intro hout
    exact fbWrite_outside (Bool.eq_false_iff.mpr (mt (State.inFrameBuffer_iff ..).mp hout))

/-- Bits [8k+7:8k] of a word, by division (R86). -/
theorem ofNat_div_eq_lane (w : Word) (k : Nat) :
    BitVec.ofNat 8 (w.toNat / 2 ^ (8 * k)) = lane w k := by
  rw [lane, BitVec.extractLsb', Nat.shiftRight_eq_div_pow]

/-- Settles O49: index 4j + k is lane k of word j. -/
theorem rowBytesAreLittleEndian : Obligations.RowBytesAreLittleEndian := by
  intro fb r j k hk
  have hword : (4 * j + k) / 4 = j := by omega
  have hlane : (4 * j + k) % 4 = k := by omega
  rw [FrameBuffer.byte, FrameBuffer.pixel, hword, hlane]
  exact ⟨ofNat_div_eq_lane _ k, rfl⟩

theorem placed_zero {w : Nat} (x : BitVec w) : placed 0 x = x.setWidth 32 :=
  BitVec.shiftLeft_zero _

/-- The word of a POKE by its fields (R112). -/
theorem encode_poke (b : Bank) (o : Offset) (d : Byte) :
    encode (.poke b o d) =
      (placed 28 0xC#4 ||| placed 22 b.bit) ||| (o.setWidth 32 <<< 8) ||| d.setWidth 32 := by
  rw [encode, formatFP, placed_zero d]
  rfl

/-- Settles O47: one byte of the list of both banks is written. -/
theorem pokeWritesOneByte : Obligations.PokeWritesOneByte := by
  refine ⟨fun s b o d hf => ⟨_, exec_running hf _, rfl, Memory.read_write_same ..,
    fun b' o' => Memory.read_write_other _ _⟩, fun o d => ?_, fun o d => ?_, rfl⟩
  · exact encode_poke .bank0 o d
  · exact encode_poke .bank1 o d

/-- Settles O12: both commands are the model's one `initialise`, the outcome drawn being success. -/
theorem successfulInitBuildsEverything : Obligations.SuccessfulInitBuildsEverything := by
  intro m a s hf halloc
  constructor <;> (rw [exec_running hf, commandBody, initialise_succeeded halloc]; rfl)

/-! ### What emitting a unit can do (R208 to R213) -/

/-- Every answer of EmitUnit: skipped, stopped at an unwritten input, or its two words stored, with
the BCACHE entry after a border unit's. -/
inductive EmitCase (s : State) : State → Prop
  | skipped : EmitCase s s
  | blocked (i : Input) : EmitCase s (raise (.unwrittenInput i) s)
  | cell (w0 w1 : Word) : EmitCase s (writePair s.line s.col w0 w1 s)
  | border (w : Word) (col : Colour) :
      EmitCase s (andThen (writePair s.line s.col w w s) (cacheBorder s.line col))

theorem emitUnit_cases (s : State) : EmitCase s (emitUnit s) := by
  by_cases hskip : Skipped s.cfg s.osdActive s.phase s.line s.col
  · rw [emitUnit_skipped hskip]
    exact .skipped
  by_cases hcell : ShowsCell s.cfg s.phase s.col
  · rw [emitUnit_screen hskip hcell, screenUnit, readLatch]
    cases s.latch with
    | none => exact .blocked .latch
    | some b =>
      rw [readInput_some]
      dsimp only [withFlash, readFlash]
      split
      · cases s.flash with
        | none => exact .blocked .flash
        | some f => exact .cell _ _
      · exact .cell _ _
  · rw [emitUnit_border ⟨hskip, hcell⟩, borderUnit, readBorder]
    cases s.border with
    | none => exact .blocked .border
    | some col => exact .border _ col

/-! ### What survives the writes of a row (R85, R213) -/

/-- `P`, said of FB and BCACHE, survives a store to any word of row `r` with `word`, and to the
row's BCACHE entry. -/
structure Survives (P : FrameBuffer → List Byte → Prop) (r : Nat) (word : Nat → Prop) : Prop where
  store : ∀ fb bc j w, word j → P fb bc → P (FrameBuffer.write fb r j w) bc
  cache : ∀ fb bc (col : Colour), P fb bc → P fb (bc.set r (col.setWidth 8))

/-- Word j of row r belongs to the units from `lo` up to `hi`, and the row exists (R85). -/
def UnitsWord (c : Cfg) (r lo hi j : Nat) : Prop :=
  r < c.vres ∧ c.rwo + 2 * lo ≤ j ∧ j < c.rwo + 2 * hi

theorem UnitsWord.mono {c : Cfg} {r lo hi lo' hi' j : Nat} (h : UnitsWord c r lo hi j)
    (hlo : lo' ≤ lo) (hhi : hi ≤ hi') : UnitsWord c r lo' hi' j := by
  obtain ⟨hr, hj, hj'⟩ := h
  exact ⟨hr, by omega, by omega⟩

/-- COL is where R34 puts it when the state is READY and unfaulted. -/
def ColOk (s : State) : Prop := s.Running → ColInRange s.cfg s.phase s.col

theorem colOk_of_positionOk {s : State} (h : s.PositionOk) : ColOk s := by
  intro hrunning
  obtain ⟨-, hcol, -⟩ := h hrunning
  exact hcol

/-- The whole units ADVANCE n has the budget for, for counts of any size. -/
def dueUnits (n : Nat) (s : State) : Nat :=
  if isDraw s.phase = true then (n + s.carry.toNat) / 4
  else if isWait s.phase = true then (s.cyc.toNat + n - s.target.toNat) / 4
  else 0

theorem unitsDue_eq_dueUnits (s : State) (n : Count) : unitsDue s n = dueUnits n.toNat s := rfl

section Survival

variable {P : FrameBuffer → List Byte → Prop} {r : Nat} {word word' : Nat → Prop}

theorem Survives.mono (h : Survives P r word) (hword : ∀ j, word' j → word j) :
    Survives P r word' :=
  ⟨fun fb bc j w hj => h.store fb bc j w (hword j hj), h.cache⟩

theorem fbWrite_survives {j : Nat} {s : State} (h : Survives P r word)
    (hj : r < s.cfg.vres → word j) (w : Word) (hs : P s.fb s.bcache) :
    P (fbWrite r j w s).fb (fbWrite r j w s).bcache := by
  cases hin : s.inFrameBuffer r j with
  | true =>
    obtain ⟨hr, -⟩ := (State.inFrameBuffer_iff ..).mp hin
    rw [fbWrite_inside hin]
    exact h.store _ _ _ _ (hj hr) hs
  | false => rw [fbWrite_outside hin]; exact hs

theorem writePair_survives {u : Nat} {s : State} (h : Survives P r (UnitsWord s.cfg r u (u + 1)))
    (w0 w1 : Word) (hs : P s.fb s.bcache) :
    P (writePair r u w0 w1 s).fb (writePair r u w0 w1 s).bcache := by
  have hfirst := fbWrite_survives (j := s.cfg.rwo + 2 * u) h
    (fun hr => ⟨hr, by omega, by omega⟩) w0 hs
  rw [writePair, andThen]
  split
  · exact hfirst
  · refine fbWrite_survives h (fun hr => ⟨?_, by omega, by omega⟩) w1 hfirst
    rwa [fbWrite_cfg] at hr

theorem emitUnit_survives {s : State}
    (h : Survives P s.line (UnitsWord s.cfg s.line s.col (s.col + 1)))
    (hs : P s.fb s.bcache) : P (emitUnit s).fb (emitUnit s).bcache := by
  generalize hanswer : emitUnit s = t
  cases hanswer ▸ emitUnit_cases s with
  | skipped | blocked => exact hs
  | cell w0 w1 => exact writePair_survives h w0 w1 hs
  | border w col =>
    have hpair := writePair_survives h w w hs
    rw [andThen]
    split
    · exact hpair
    · exact h.cache _ _ col hpair

/-- The draw loop writes the units its count allows, up to the row's end when COL lies in the row
(R206). -/
theorem emitUnits_survives (k : Nat) {s : State}
    (h : Survives P s.line fun j => s.col < s.cfg.units →
      UnitsWord s.cfg s.line s.col (min (s.col + k) s.cfg.units) j)
    (hs : P s.fb s.bcache) : P (emitUnits k s).fb (emitUnits k s).bcache := by
  induction k generalizing s with
  | zero => exact hs
  | succ k ih =>
    have hfirst := emitUnit_survives
      (h.mono fun j hj hcol => hj.mono (Nat.le_refl _) (by omega)) hs
    obtain ⟨fb, bc, f, hframe⟩ := emitUnit_frame s
    rw [hframe] at hfirst
    rw [emitUnits, hframe, andThen]
    split
    · exact hfirst
    · dsimp only
      split
      · exact hfirst
      next hend =>
        refine ih (s := { s with fb := fb, bcache := bc, fault := f, col := s.col + 1 })
          (h.mono fun j hj hcol => ?_) hfirst
        have hlater : UnitsWord s.cfg s.line (s.col + 1) (min (s.col + 1 + k) s.cfg.units) j :=
          hj (Nat.lt_of_le_of_ne hcol hend)
        exact hlater.mono (Nat.le_succ _) (by omega)

theorem advance_survives (n : Nat) {s : State} (hf : s.fault = none)
    (h : Survives P s.line fun j => ColOk s → 0 < s.cfg.units →
      UnitsWord s.cfg s.line s.col (min (s.col + dueUnits n s) s.cfg.units) j)
    (hs : P s.fb s.bcache) : P (advance n s).fb (advance n s).bcache := by
  generalize hanswer : advance n s = t
  cases advance_cases hf hanswer with
  | notReady | overflow | frameStart | counted | unlatched => exact hs
  | crossed v hv _ hp =>
    refine emitUnits_survives _ (s := crossStart n v s) (h.mono fun j hj hcol hunits => ?_) hs
    obtain ⟨hstart, -⟩ := hcol ⟨hv, hf⟩
    rw [hstart (isWait_not_isDraw hp), dueUnits, if_neg (by simp [isWait_not_isDraw hp]), if_pos hp]
    exact hj hunits
  | drew hv _ hp =>
    refine emitUnits_survives _ (s := drawStart n s) (h.mono fun j hj hcol hunits => ?_) hs
    obtain ⟨-, hrow⟩ := hcol ⟨hv, hf⟩
    rw [dueUnits, if_pos hp]
    exact hj (hrow hp)

/-- FLUSH, being ADVANCE repeated, writes what ADVANCE writes (R217). -/
theorem flush_survives {s : State} (hf : s.fault = none) (h : ∀ r, Survives P r fun _ => True)
    (hs : P s.fb s.bcache) : P (flush s).fb (flush s).bcache :=
  flush_keeps (P := fun s => P s.fb s.bcache)
    (fun n s hf => advance_survives n hf ((h s.line).mono fun _ _ => trivial)) hf hs

end Survival

/-! ### The canonical form (log entry 7) -/

theorem survives_wf (r : Nat) : Survives (fun fb _ => FrameBuffer.wf fb = true) r fun _ => True :=
  ⟨fun _ _ j w _ => FrameBuffer.write_wf r j w, fun _ _ _ => id⟩

/-- Only POKE writes video memory, only ADVANCE and FLUSH the frame buffer, one byte or word at a
time. -/
theorem exec_storageOk (i : Instr) (s t : State) (hs : s.StorageOk) (h : exec i s = .next t) :
    t.StorageOk := by
  obtain ⟨-, rfl⟩ | ⟨hf, rfl⟩ := exec_next_cases h
  · exact hs
  obtain ⟨hvram, hfb⟩ := hs
  have initialised (m : Mode) : (initialise m s).StorageOk := by
    obtain ⟨-, -, -, -, hvram', hfb', -⟩ := initialise_frame m s
    exact ⟨hvram' ▸ hvram, hfb' ▸ hfb⟩
  cases i with
  | init m a => exact initialised ⟨m, a⟩
  | reset m a => exact initialised ⟨m, a⟩
  | advance n =>
    have hadvance := advance_survives (zextCount n).toNat hf
      ((survives_wf s.line).mono fun _ _ => trivial) hfb
    obtain ⟨p, l, u, ta, ca, cy, o, fb, bc, f, hframe⟩ := advance_frame (zextCount n).toNat s
    rw [commandBody]
    rw [hframe] at hadvance ⊢
    exact ⟨hvram, hadvance⟩
  | flush =>
    have hflush := flush_survives hf survives_wf hfb
    obtain ⟨p, l, u, ta, ca, cy, o, fb, bc, f, hframe⟩ := flush_frame s
    rw [commandBody]
    rw [hframe] at hflush ⊢
    exact ⟨hvram, hflush⟩
  | sample n =>
    obtain ⟨o, f, hframe⟩ := sample_frame (zextCount n).toNat s
    rw [commandBody, hframe]
    exact ⟨hvram, hfb⟩
  | frameWrap =>
    obtain ⟨cy, f, hframe⟩ := frameWrap_frame s
    rw [commandBody, hframe]
    exact ⟨hvram, hfb⟩
  | setBorder | setOverlay | setFlash | setLatch | setCycles => exact ⟨hvram, hfb⟩
  | poke b o d => exact ⟨Memory.write_wf b o d hvram, hfb⟩

/-- Settles O56: commands and the overlay's store write single bytes and words, each write keeping
the form. -/
theorem everyStepKeepsStorageCanonical : Obligations.EveryStepKeepsStorageCanonical :=
  fun _ _ hs h => step_keeps (fun _ _ hs => hs) exec_storageOk (fun _ hs => hs) (fun _ hs => hs)
    (fun _ r j w ⟨hvram, hfb⟩ => ⟨hvram, FrameBuffer.write_wf r j w hfb⟩) hs h

/-! ### The words of one unit (R85, R208 to R210) -/

/-- The unit at (LINE, COL) with its two words stored. -/
def storeWords (w0 w1 : Word) (s : State) : State :=
  { s with fb := storeUnit s.fb s.line (s.cfg.rwo + 2 * s.col) (some (w0, w1)) }

theorem storeWords_reads (w0 w1 : Word) (s : State) :
    let fb := (storeWords w0 w1 s).fb
    let j := s.cfg.rwo + 2 * s.col
    FrameBuffer.read fb s.line j = w0 ∧ FrameBuffer.read fb s.line (j + 1) = w1 ∧
      ∀ r j', ¬ (r = s.line ∧ (j' = j ∨ j' = j + 1)) →
        FrameBuffer.read fb r j' = FrameBuffer.read s.fb r j' := by
  obtain ⟨hfirst, hsecond⟩ := storeUnit_unitHolds s.cfg s.fb s.line s.col (some (w0, w1))
  exact ⟨hfirst, hsecond, fun r j' hother => storeUnit_read_other
    (fb := s.fb) (r := s.line) (j := s.cfg.rwo + 2 * s.col) (some (w0, w1)) (by omega)⟩

/-- Settles O30: the unit's pair of words and its BCACHE entry. -/
theorem borderUnitPaintsTwoWords : Obligations.BorderUnitPaintsTwoWords := by
  intro s col hf hborder hskip hcell hr hj
  have hpaint : emitUnit s = cacheBorder s.line col
      (storeWords (borderWordAt s.borderWord col) (borderWordAt s.borderWord col) s) := by
    rw [emitUnit_border ⟨hskip, hcell⟩, borderUnit, readBorder_written hborder]
    dsimp only
    rw [writePair_inside hf hr hj, andThen_running (by exact hf), storeWords]
  dsimp only
  rw [hpaint]
  exact ⟨rfl, storeWords_reads _ _ s⟩

/-- Settles O31: the unit's pair of words, FLASH being read only where the cell flashes. -/
theorem screenUnitPaintsItsCell : Obligations.ScreenUnitPaintsItsCell := by
  intro s b f hf hlatch hskip hcell hr hj a p hflash
  have hshown : withFlash a p s (fun shown => writeCell s.line s.col a shown s) =
      writeCell s.line s.col a (shownByte a p f) s := by
    by_cases hbit : a.getLsbD 7 = true
    · rw [withFlash_written (fun _ => by rw [hflash hbit]; exact nofun), hflash hbit,
        Option.getD_some]
    · rw [withFlash_written (fun h => absurd h hbit), shownByte, shownByte,
        if_neg (fun h => hbit h.1), if_neg (fun h => hbit h.1)]
  have hpaint : emitUnit s =
      storeWords (aluAt s.alu ((shownByte a p f).extractLsb' 4 4) a)
        (aluAt s.alu ((shownByte a p f).extractLsb' 0 4) a) s := by
    rw [emitUnit_screen hskip hcell, screenUnit, readLatch_written hlatch]
    exact hshown.trans (writePair_inside hf hr hj _ _)
  dsimp only
  rw [hpaint]
  exact ⟨rfl, storeWords_reads _ _ s⟩

/-! ### Words outside the units (R85) -/

/-- What a word outside the writable ones reads as survives. -/
theorem survives_read (fb₀ : FrameBuffer) {r r' j' : Nat} {word : Nat → Prop}
    (h : r' = r → ¬ word j') :
    Survives (fun fb _ => FrameBuffer.read fb r' j' = FrameBuffer.read fb₀ r' j') r word := by
  refine ⟨fun fb _ j w hj hread => (FrameBuffer.read_write_other _ _ ?_).trans hread,
    fun _ _ _ => id⟩
  rintro ⟨rfl, rfl⟩
  exact h rfl hj

theorem survives_length (n r : Nat) (word : Nat → Prop) :
    Survives (fun _ bc => bc.length = n) r word :=
  ⟨fun _ _ _ _ _ => id, fun _ _ _ h => List.length_set.trans h⟩

theorem survives_otherEntry (e : Option Byte) {r r' : Nat} (h : r' ≠ r) (word : Nat → Prop) :
    Survives (fun _ bc => bc[r']? = e) r word :=
  ⟨fun _ _ _ _ _ => id, fun _ _ _ he => (List.getElem?_set_ne h.symm).trans he⟩

/-- Settles O33: the draw body starts at COL and ends with the row. -/
theorem advanceWritesOnlyItsUnits : Obligations.AdvanceWritesOnlyItsUnits := by
  intro s t n hd hpos h
  obtain ⟨-, rfl⟩ | ⟨hf, hbody⟩ := exec_next_cases h
  · exact ⟨rfl, rfl, fun _ _ => rfl, fun _ _ _ => rfl⟩
  rw [commandBody, zextCount_toNat] at hbody
  have hunits : 0 < s.cfg.units := (Configs.Drawable.select hd s.mode).2
  subst hbody
  refine ⟨?_, advance_survives _ hf (survives_length _ _ _) rfl,
    fun r hr => advance_survives _ hf (survives_otherEntry _ hr _) rfl,
    fun r j hout => advance_survives _ hf (survives_read s.fb ?_) rfl⟩
  · obtain ⟨p, l, u, ta, ca, cy, o, fb, bc, f, hframe⟩ := advance_frame n.toNat s
    rw [hframe]
  · intro hr hword
    obtain ⟨-, hlo, hhi⟩ := hword (colOk_of_positionOk hpos) hunits
    exact hout ⟨hr, hlo, hhi⟩

end Sys2Proof

/-! PROOFS. The statements of spec/20_memory.md, second part: no command leaves the units of a row,
none raises BoundsViolation, and SAMPLE commutes with the commands that write none of its inputs. -/

namespace Sys2Proof

open Sys2Proof.Machine Sys2Proof.Claims

/-! ### COL stays in its row (R34), whatever the configuration checks say -/

theorem rowSuccessors_not_isDraw {p q : Phase} (h : q ∈ rowSuccessors p) : isDraw q = false := by
  cases p with
  | topDraw | mainDraw | botDraw => obtain rfl | rfl := List.mem_pair.mp h <;> rfl
  | blank | topWait | mainWait | botWait => cases h

section Column

variable {s : State}

theorem emitUnits_colInRange (hp : isDraw s.phase = true) (hcol : s.col < s.cfg.units) (k : Nat) :
    ColInRange (emitUnits k s).cfg (emitUnits k s).phase (emitUnits k s).col := by
  refine emitUnits_keeps (P := fun s => ColInRange s.cfg s.phase s.col) (fun t _ ht => ?_)
    (fun t hdraw hend ⟨_, hrow⟩ => ⟨fun h => ?_, fun _ => Nat.lt_of_le_of_ne (hrow hdraw) hend⟩)
    (fun t hdraw _ => ⟨fun _ => rfl, fun h => ?_⟩) k hp ⟨fun h => ?_, fun _ => hcol⟩
  · obtain ⟨fb, bc, f, hframe⟩ := emitUnit_frame t
    rw [hframe]; exact ht
  · exact absurd (h.symm.trans hdraw) (by decide)
  · have hnext := rowSuccessors_not_isDraw (nextRow_mem_rowSuccessors hdraw t.cfg (t.line + 1))
    exact absurd (hnext.symm.trans h) (by decide)
  · exact absurd (h.symm.trans hp) (by decide)

theorem advance_colOk (hunits : 0 < s.cfg.units) (n : Nat) (hf : s.fault = none) (hs : ColOk s) :
    ColOk (advance n s) := by
  generalize hanswer : advance n s = t
  cases advance_cases hf hanswer with
  | notReady | overflow | unlatched => exact fun hrunning => nomatch hrunning.2
  | frameStart => exact fun _ => ⟨fun _ => rfl, nofun⟩
  | counted hv => exact fun _ => hs ⟨hv, hf⟩
  | crossed v _ _ hp =>
    exact fun _ => emitUnits_colInRange (s := crossStart n v s) (isDraw_drawOf hp) hunits _
  | drew hv _ hp =>
    obtain ⟨-, hrow⟩ := hs ⟨hv, hf⟩
    exact fun _ => emitUnits_colInRange (s := drawStart n s) hp (hrow hp) _

end Column

/-! ### No command leaves the units of a row (R85, R225) -/

theorem advance_cfg (n : Nat) (s : State) : (advance n s).cfg = s.cfg := by
  obtain ⟨p, l, u, ta, ca, cy, o, fb, bc, f, hframe⟩ := advance_frame n s
  rw [hframe]
  rfl

/-- Under CFG `c` the run has written nothing but unit words since the frame buffer was `fb`. -/
def PaintedUnitsOnly (c : Cfg) (fb : FrameBuffer) (t : State) : Prop :=
  t.cfg = c ∧ ColOk t ∧
    ∀ r j, ¬ UnitsWord c r 0 c.units j → FrameBuffer.read t.fb r j = FrameBuffer.read fb r j

theorem advance_paintedUnitsOnly {c : Cfg} (hunits : 0 < c.units) {fb : FrameBuffer} (n : Nat)
    (s : State) (hf : s.fault = none) (hs : PaintedUnitsOnly c fb s) :
    PaintedUnitsOnly c fb (advance n s) := by
  obtain ⟨rfl, hcol, hread⟩ := hs
  refine ⟨advance_cfg n s, advance_colOk hunits n hf hcol, fun r j hout => ?_⟩
  refine (advance_survives n hf (survives_read s.fb fun hr hword => hout ?_) rfl).trans
    (hread r j hout)
  subst hr
  exact (hword hcol hunits).mono (Nat.zero_le _) (Nat.min_le_right ..)

/-- Settles O51: only ADVANCE and FLUSH write the frame buffer, and COL never leaves the row. -/
theorem onlyUnitWordsAreWritten : Obligations.OnlyUnitWordsAreWritten := by
  intro i s t hd hpos h r j hout
  obtain ⟨-, rfl⟩ | ⟨hf, hbody⟩ := exec_next_cases h
  · rfl
  have hunits : 0 < s.cfg.units := (Configs.Drawable.select hd s.mode).2
  have hstart : PaintedUnitsOnly s.cfg s.fb s :=
    ⟨rfl, colOk_of_positionOk hpos, fun _ _ _ => rfl⟩
  have painted (ht : PaintedUnitsOnly s.cfg s.fb t) :
      FrameBuffer.read t.fb r j = FrameBuffer.read s.fb r j := by
    obtain ⟨-, -, hread⟩ := ht
    exact hread r j hout
  cases i with
  | advance n => exact painted (hbody ▸ advance_paintedUnitsOnly hunits _ s hf hstart)
  | flush => exact painted (hbody ▸ flush_keeps (advance_paintedUnitsOnly hunits) hf hstart)
  | init | reset | sample | setBorder | setOverlay | setFlash | setLatch | setCycles | frameWrap
  | poke =>
    obtain ⟨-, -, -, hfb, -⟩ := eachElementHasItsWriters _ s t h
    exact hfb nofun nofun r j

/-! ### What SAMPLE answers (R180 to R187) -/

/-- `t` holds what `s` holds of all that SAMPLE reads (R181). -/
structure SameBus (s t : State) : Prop where
  vstat : t.vstat = s.vstat
  cfg : t.cfg = s.cfg
  latch : t.latch = s.latch
  bmpOff : t.bmpOff = s.bmpOff
  attrOff : t.attrOff = s.attrOff
  vram : ∀ b o, Memory.read t.vram b o = Memory.read s.vram b o

/-- Every pair of answers SAMPLE can give in two states with the same bus. -/
inductive SampledAlike (s t : State) : State → State → Prop
  | notReady : SampledAlike s t (raise .notReady s) (raise .notReady t)
  | unlatched :
      SampledAlike s t (raise (.unwrittenInput .latch) s) (raise (.unwrittenInput .latch) t)
  | emitted (v : Byte) : SampledAlike s t (emit v s) (emit v t)

section Sampling

variable {s t : State}

theorem emitFetched_alike (h : SameBus s t) (off : Offset) :
    SampledAlike s t (emitFetched off s) (emitFetched off t) := by
  rw [emitFetched, emitFetched, readLatch, readLatch, h.latch]
  cases s.latch with
  | none => exact .unlatched
  | some b =>
    rw [readInput_some, readInput_some, h.vram]
    exact .emitted _

theorem sampleSlot_alike (h : SameBus s t) (g phase : Nat) :
    SampledAlike s t (sampleSlot g phase s) (sampleSlot g phase t) := by
  simp only [sampleSlot, State.bitmapOffset, State.attributeOffset, h.bmpOff, h.attrOff]
  split
  · exact emitFetched_alike h _
  · exact emitFetched_alike h _
  · exact emitFetched_alike h _
  · exact emitFetched_alike h _
  · exact .emitted _

theorem sampleAt_alike (h : SameBus s t) (c : Nat) :
    SampledAlike s t (sampleAt c s) (sampleAt c t) := by
  simp only [sampleAt, h.cfg]
  split
  · exact .emitted _
  · split
    · exact .emitted _
    · exact sampleSlot_alike h _ _

theorem sample_alike (h : SameBus s t) (n : Nat) :
    SampledAlike s t (sample n s) (sample n t) := by
  simp only [sample, h.cfg, h.vstat]
  split
  · exact .notReady
  · split
    · exact .emitted _
    · exact sampleAt_alike h _

end Sampling

/-! ### BoundsViolation is never raised (R84, R225) -/

/-- Units that fit the row are painted, or stop at an unwritten input. -/
theorem emitUnits_fault (k : Nat) {s : State} (hf : s.fault = none) (hfits : RowFits s)
    (hcol : s.col < s.cfg.units) : (emitUnits k s).fault ≠ some .boundsViolation := by
  induction k generalizing s with
  | zero => rw [emitUnits, hf]; exact nofun
  | succ k ih =>
    cases hblocked : blockedOn s s.osdActive s.phase s.line s.col with
    | some i => rw [emitUnits_blocked k hblocked]; exact nofun
    | none =>
      rw [emitUnits, emitUnit_unblocked hf hfits hcol hblocked,
        andThen_running (s := paintUnit s) hf]
      dsimp only
      split
      · exact fun h => nomatch hf.symm.trans h
      next hend => exact ih (s := paintNext s) hf hfits (Nat.lt_of_le_of_ne hcol hend)

theorem rowFits_of_draw {s : State} (hc : s.cfg.Admitted) (hp : isDraw s.phase = true)
    (hl : LineInRange s.cfg s.phase s.line) : RowFits s := by
  refine ⟨line_lt_vres hc hp hl, ?_⟩
  obtain ⟨-, -, h3, -⟩ := hc
  exact h3

/-- A draw body that starts in range meets no bound (R54, R225). -/
theorem emitUnits_fault_of_positioned {s : State} (hc : s.cfg.Admitted) (hf : s.fault = none)
    (hp : isDraw s.phase = true) (hs : Positioned s) (k : Nat) :
    (emitUnits k s).fault ≠ some .boundsViolation := by
  obtain ⟨hline, ⟨-, hrow⟩, -⟩ := hs
  exact emitUnits_fault k hf (rowFits_of_draw hc hp hline) (hrow hp)

theorem advance_fault (n : Nat) {s : State} (hf : s.fault = none) (hs : RasterOk s) :
    (advance n s).fault ≠ some .boundsViolation := by
  obtain ⟨ha, hd, hpos⟩ := hs
  have hc : s.cfg.Admitted := Configs.admitted_select ha _
  have hd' : s.cfg.Drawable := Configs.Drawable.select hd _
  have hs' (hv : s.vstat = .ready) : Positioned s := (positionOk_iff s).mp hpos ⟨hv, hf⟩
  generalize hanswer : advance n s = t
  cases advance_cases hf hanswer with
  | notReady | overflow | unlatched => exact nofun
  | frameStart | counted => exact fun h => nomatch hf.symm.trans h
  | crossed v hv _ hp =>
    exact emitUnits_fault_of_positioned (s := crossStart n v s) hc hf (isDraw_drawOf hp)
      (crossStart_positioned hc hd' hp n v (hs' hv)) _
  | drew hv _ hp =>
    exact emitUnits_fault_of_positioned (s := drawStart n s) hc hf hp
      (drawStart_positioned n (hs' hv)) _

/-- The position invariant, and no bound violated so far. -/
def BoundsOk (s : State) : Prop := RasterOk s ∧ s.fault ≠ some .boundsViolation

theorem exec_boundsOk (i : Instr) (s t : State) (hs : BoundsOk s) (h : exec i s = .next t) :
    BoundsOk t := by
  obtain ⟨hraster, hbounds⟩ := hs
  refine ⟨exec_rasterOk i s t hraster h, ?_⟩
  obtain ⟨-, rfl⟩ | ⟨hf, rfl⟩ := exec_next_cases h
  · exact hbounds
  have kept {t : State} (ht : t.fault = s.fault) : t.fault ≠ some .boundsViolation := by
    rw [ht, hf]; exact nofun
  have initialised (m : Mode) : (initialise m s).fault = s.fault := by
    obtain ⟨-, -, -, -, -, -, -, -, hfault⟩ := initialise_frame m s
    exact hfault
  cases i with
  | init m a => exact kept (initialised ⟨m, a⟩)
  | reset m a => exact kept (initialised ⟨m, a⟩)
  | advance n => exact advance_fault _ hf hraster
  | flush =>
    obtain ⟨-, hflush⟩ : BoundsOk (flush s) := flush_keeps
      (fun n s hf ⟨hs, _⟩ => ⟨advance_rasterOk n s hf hs, advance_fault n hf hs⟩) hf
      ⟨hraster, hbounds⟩
    exact hflush
  | sample n =>
    rw [commandBody]
    generalize hanswer : sample (zextCount n).toNat s = t
    cases hanswer ▸ sample_alike (⟨rfl, rfl, rfl, rfl, rfl, fun _ _ => rfl⟩ : SameBus s s) _ with
    | notReady | unlatched => exact nofun
    | emitted v => exact kept rfl
  | frameWrap =>
    rw [commandBody, frameWrap]
    split
    · exact nofun
    · split
      · exact nofun
      · exact kept rfl
  | setBorder | setOverlay | setFlash | setLatch | setCycles | poke => exact kept rfl

/-- Settles O58: the units drawn lie in the row by the position invariant, and the row in the frame
buffer by W2 and W3. -/
theorem boundsAreNeverViolated : Obligations.BoundsAreNeverViolated := by
  intro s t hd hpos hf h
  suffices hkept : BoundsOk t from hkept.2
  refine step_keeps (fun _ _ hs => hs) exec_boundsOk
    (fun s ⟨⟨ha, hd, _⟩, _⟩ => ⟨⟨ha, hd, ?_⟩, nofun⟩)
    (fun _ hs => hs) (fun _ _ _ _ hs => hs) ⟨⟨step_next_admitted h, hd, hpos⟩, hf⟩ h
  exact fun hrunning => nomatch hrunning.2

/-! ### The commands of R96 neither read nor write OUT (R52) -/

/-- The state with another output trace. -/
def withOut (s : State) (o : List Byte) : State := { s with out := o }

/-- What the output trace holds makes no difference, and is kept. -/
def IgnoresOut (f : State → State) : Prop := ∀ s o, f (withOut s o) = withOut (f s) o

section Out

variable {o : List Byte} {s t u : State}

theorem withOut_andThen {f : State → State} (hs : t = withOut s o) (hf : IgnoresOut f) :
    andThen t f = withOut (andThen s f) o := by
  subst hs
  cases hk : s.fault with
  | none => rw [andThen_running hk, andThen_running (s := withOut s o) hk, hf]
  | some k => rw [andThen_stopped hk, andThen_stopped (s := withOut s o) hk]

theorem withOut_ite {c : Prop} [Decidable c] {t' u' : State} (ht : t' = withOut t o)
    (hu : u' = withOut u o) : (if c then t' else u') = withOut (if c then t else u) o := by
  rw [ht, hu, apply_ite (withOut · o)]

theorem withOut_readInput {α : Type} (i : Input) (value : Option α) {use use' : α → State}
    (h : ∀ v, use' v = withOut (use v) o) :
    readInput i value (withOut s o) use' = withOut (readInput i value s use) o := by
  cases value with
  | none => rfl
  | some v => exact h v

end Out

theorem fbWrite_ignoresOut (r j : Nat) (w : Word) : IgnoresOut (fbWrite r j w) := fun _ _ =>
  withOut_ite rfl rfl

theorem writePair_ignoresOut (r u : Nat) (w0 w1 : Word) : IgnoresOut (writePair r u w0 w1) :=
  fun s o => withOut_andThen (fbWrite_ignoresOut r _ w0 s o) (fbWrite_ignoresOut r _ w1)

theorem borderUnit_ignoresOut (r u : Nat) : IgnoresOut (borderUnit r u) := fun s o =>
  withOut_readInput _ _ fun _ => withOut_andThen (writePair_ignoresOut r u _ _ s o) fun _ _ => rfl

theorem screenUnit_ignoresOut (r u : Nat) : IgnoresOut (screenUnit r u) := fun s o =>
  withOut_readInput _ _ fun _ => withOut_ite
    (withOut_readInput _ _ fun _ => writePair_ignoresOut r u _ _ s o)
    (writePair_ignoresOut r u _ _ s o)

theorem emitUnit_ignoresOut : IgnoresOut emitUnit := fun s o =>
  withOut_ite rfl <|
    withOut_ite (screenUnit_ignoresOut s.line s.col s o) (borderUnit_ignoresOut s.line s.col s o)

theorem emitUnits_ignoresOut (k : Nat) : IgnoresOut (emitUnits k) := by
  induction k with
  | zero => exact fun _ _ => rfl
  | succ k ih =>
    exact fun s o => withOut_andThen (emitUnit_ignoresOut s o) fun t o =>
      withOut_ite rfl (ih { t with col := t.col + 1 } o)

theorem drawBody_ignoresOut (b : Nat) : IgnoresOut (drawBody b) := fun s o =>
  emitUnits_ignoresOut _ { s with carry := BitVec.ofNat 32 ((b + s.carry.toNat) % 4) } o

theorem latchVariant_ignoresOut : IgnoresOut latchVariant := fun s _ =>
  withOut_readInput _ _ (use := fun v => { s with osdActive := v }) fun _ => rfl

theorem crossBoundary_ignoresOut : IgnoresOut crossBoundary := fun s o =>
  withOut_andThen (latchVariant_ignoresOut { s with
    carry := s.cyc - s.target, target := s.target + BitVec.ofNat 32 s.cfg.cpl, col := 0 } o)
    fun t o => drawBody_ignoresOut 0 { t with phase := drawOf t.phase } o

theorem phaseStep_ignoresOut (n : Nat) : IgnoresOut (phaseStep n) := by
  intro s o
  obtain hp | hp | hp := phase_cases s.phase
  · rw [phaseStep_blank hp, phaseStep_blank (s := withOut s o) hp]
    exact withOut_ite rfl rfl
  · rw [phaseStep_wait hp, phaseStep_wait (s := withOut s o) hp]
    exact withOut_ite rfl (crossBoundary_ignoresOut s o)
  · rw [phaseStep_draw hp, phaseStep_draw (s := withOut s o) hp]
    exact drawBody_ignoresOut n s o

theorem advance_ignoresOut (n : Nat) : IgnoresOut (advance n) := fun s o =>
  withOut_ite rfl <| withOut_ite rfl (phaseStep_ignoresOut n (countCycles n s) o)

theorem flushPasses_ignoresOut (k : Nat) : IgnoresOut (flushPasses k) := by
  induction k with
  | zero => exact fun _ _ => rfl
  | succ k ih =>
    exact fun s o => withOut_ite (withOut_andThen (advance_ignoresOut _ s o) ih) rfl

theorem flush_ignoresOut : IgnoresOut flush := fun s o =>
  withOut_ite rfl (flushPasses_ignoresOut _ s o)

theorem commandBody_ignoresOut {i : Instr} (hi : SampleIndependent i) :
    IgnoresOut (commandBody i) := by
  cases i with
  | advance n => exact advance_ignoresOut _
  | flush => exact flush_ignoresOut
  | setBorder | setFlash | setOverlay | setCycles => exact fun _ _ => rfl
  | init | reset | sample | setLatch | frameWrap | poke => cases hi

/-! ### SAMPLE among the main context's commands (R96) -/

/-- The commands of R96 write nothing SAMPLE reads, and not OUT. -/
theorem sampleIndependent_sameBus {i : Instr} (hi : SampleIndependent i) {s t : State}
    (h : exec i s = .next t) : SameBus s t ∧ t.out = s.out := by
  have hmode : ¬ IsModeCommand i := by
    cases i with
    | init | reset => cases hi
    | advance | flush | sample | setBorder | setOverlay | setFlash | setLatch | setCycles
    | frameWrap | poke => exact id
  have hsample (n : Count) : i ≠ .sample n := by rintro rfl; cases hi
  have hlatch (v : Bank) : i ≠ .setLatch v := by rintro rfl; cases hi
  have hpoke (b : Bank) (o : Offset) (d : Byte) : i ≠ .poke b o d := by rintro rfl; cases hi
  obtain ⟨htables, -, -, -, -, -, -, hlatch', hvram, hout, -, hconfigs⟩ :=
    eachElementHasItsWriters i s t h
  obtain ⟨hm, hv, -, -, hb, ha, -⟩ := htables hmode
  exact ⟨⟨hv, State.cfg_congr hm hconfigs, hlatch' hlatch, hb, ha, hvram hpoke⟩,
    hout hmode hsample⟩

/-- Settles O24: SAMPLE sees the same bus on either side of the command, and the command does not
see the byte SAMPLE appended. -/
theorem sampleCommutesWithMainCommands : Obligations.SampleCommutesWithMainCommands := by
  intro i n s t u hi ht htf hu huf
  have hf : s.fault = none := exec_fault_none ht htf
  obtain ⟨hbus, hout⟩ := sampleIndependent_sameBus hi ht
  rw [exec_running hf] at ht hu
  rw [exec_running htf, exec_running huf]
  obtain rfl := Host.Outcome.next.inj ht
  have hsampled := sample_alike hbus (zextCount n).toNat
  rw [show sample (zextCount n).toNat s = u from Host.Outcome.next.inj hu] at hsampled
  rw [commandBody]
  generalize sample (zextCount n).toNat (commandBody i s) = w at hsampled
  cases hsampled with
  | notReady | unlatched => cases huf
  | emitted v =>
    refine ⟨?_, congrArg _ (commandBody_ignoresOut hi s (s.out ++ [v]))⟩
    rw [emit, emit, hout]

end Sys2Proof

/-! PROOFS. The statements of spec/30_encoding.md: the decoder and the encoder are inverse to each
other, illegal words raise IllegalCommand, and what the assembler accepts. The facts they need come
first: the fields of a word cover the bits its row's mask leaves free, the decoder's answer by the
row of the opcode table, and the assembler's range checks operand by operand. -/

namespace Sys2Proof

open Sys2Proof.Machine Sys2Proof.Claims

/-! ### The fields of a word (R112) -/

/-- A field put back where it was read from is the word under the field's own mask. -/
theorem placed_extractLsb' (w : Word) (lo n : Nat) :
    placed lo (w.extractLsb' lo n) = w &&& placed lo (BitVec.allOnes n) := by
  apply BitVec.eq_of_getLsbD_eq
  intro i hi
  simp only [BitVec.getLsbD_and, getLsbD_placed, BitVec.getLsbD_extractLsb',
    BitVec.getLsbD_allOnes]
  by_cases hlo : lo ≤ i
  · simp [hlo, hi, Bool.and_comm]
  · simp [hlo]

theorem ofBool_getLsbD (w : Word) (i : Nat) :
    BitVec.ofBool (w.getLsbD i) = w.extractLsb' i 1 := by
  rw [BitVec.getLsbD_eq_extractLsb']
  generalize w.extractLsb' i 1 = x
  revert x
  decide

theorem variantOfBit_bit (b : Bool) : (variantOfBit b).bit = BitVec.ofBool b := by
  cases b <;> rfl

theorem aspectOfBit_bit (b : Bool) : (aspectOfBit b).bit = BitVec.ofBool b := by
  cases b <;> rfl

theorem bankOfBit_bit (b : Bool) : (bankOfBit b).bit = BitVec.ofBool b := by
  cases b <;> rfl

/-! Where the mask of a format leaves exactly the format's fields free, a word that matches the mask
is made of its opcode and its fields: nothing is left over for a don't-care bit (R116). -/

section Formats

variable {w : Word} (op : BitVec 4)

theorem or_free_bits {mask free : Word} (h : w &&& mask = placed 28 op)
    (hcover : mask ||| free = BitVec.allOnes 32) : placed 28 op ||| (w &&& free) = w := by
  rw [← h, ← BitVec.and_or_distrib_left, hcover, BitVec.and_allOnes]

theorem formatFM_of_masked (h : w &&& 0xFFFFFFFC = placed 28 op) :
    formatFM op (variantOfBit (w.getLsbD 1)) (aspectOfBit (w.getLsbD 0)) = w := by
  rw [formatFM, variantOfBit_bit, aspectOfBit_bit, ofBool_getLsbD, ofBool_getLsbD,
    placed_extractLsb', placed_extractLsb', BitVec.or_assoc, ← BitVec.and_or_distrib_left]
  exact or_free_bits op h rfl

theorem formatFN_of_masked (h : w &&& 0xFF000000 = placed 28 op) :
    formatFN op (w.extractLsb' 0 24) = w := by
  rw [formatFN, placed_extractLsb']
  exact or_free_bits op h rfl

theorem formatF0_of_masked (h : w &&& 0xFFFFFFFF = placed 28 op) : formatF0 op = w := by
  rw [formatF0, ← h]
  exact BitVec.and_allOnes

theorem formatFC_of_masked (h : w &&& 0xFFFFFFF8 = placed 28 op) :
    formatFC op (w.extractLsb' 0 3) = w := by
  rw [formatFC, placed_extractLsb']
  exact or_free_bits op h rfl

theorem formatF1_of_masked (h : w &&& 0xFFFFFFFE = placed 28 op) :
    formatF1 op (BitVec.ofBool (w.getLsbD 0)) = w := by
  rw [formatF1, ofBool_getLsbD, placed_extractLsb']
  exact or_free_bits op h rfl

theorem formatFP_of_masked (h : w &&& 0xFF800000 = placed 28 op) :
    formatFP op (bankOfBit (w.getLsbD 22)) (w.extractLsb' 8 14) (w.extractLsb' 0 8) = w := by
  rw [formatFP, bankOfBit_bit, ofBool_getLsbD, placed_extractLsb', placed_extractLsb',
    placed_extractLsb', BitVec.or_assoc, BitVec.or_assoc, ← BitVec.and_or_distrib_left,
    ← BitVec.and_or_distrib_left]
  exact or_free_bits op h rfl

end Formats

/-! ### The rows of the opcode table (R114, R116) -/

theorem rowOf_of_mem : ∀ row ∈ opcodeTable, rowOf row.op = some row := by decide

theorem rowOf_eq_some_iff {op : BitVec 4} {row : OpcodeRow} :
    rowOf op = some row ↔ row ∈ opcodeTable ∧ op = row.op := by
  constructor
  · intro h
    rw [rowOf] at h
    have hop := List.find?_some h
    exact ⟨List.mem_of_find?_eq_some h, (eq_of_beq hop).symm⟩
  · rintro ⟨hmem, rfl⟩
    exact rowOf_of_mem row hmem

theorem rowOf_reserved {op : BitVec 4} (h : op = 0x0 ∨ op = 0xD ∨ op = 0xE ∨ op = 0xF) :
    rowOf op = none := by
  obtain rfl | rfl | rfl | rfl := h <;> rfl

/-- Every row's mask takes in OP and its pattern fixes OP to the row's own. -/
theorem opField_mask_pattern :
    ∀ row ∈ opcodeTable, opField row.mask = BitVec.allOnes 4 ∧ opField row.pattern = row.op := by
  decide

theorem opField_of_masked {w : Word} {row : OpcodeRow} (hmem : row ∈ opcodeTable)
    (h : w &&& row.mask = row.pattern) : opField w = row.op := by
  obtain ⟨hmask, hpattern⟩ := opField_mask_pattern row hmem
  calc opField w = opField w &&& opField row.mask := by rw [hmask, BitVec.and_allOnes]
    _ = opField (w &&& row.mask) := BitVec.extractLsb'_and.symm
    _ = row.op := by rw [h, hpattern]

/-- A word with a defined OP has the fields of a command, and a word that matches OP's row is that
command's word. -/
theorem fieldsOf_of_mem {w : Word} {row : OpcodeRow} (hmem : row ∈ opcodeTable)
    (hop : opField w = row.op) :
    ∃ i, fieldsOf w = some i ∧ (w &&& row.mask = row.pattern → encode i = w) := by
  rw [fieldsOf, hop]
  simp only [opcodeTable, List.mem_cons, List.not_mem_nil, or_false] at hmem
  obtain rfl | rfl | rfl | rfl | rfl | rfl | rfl | rfl | rfl | rfl | rfl | rfl := hmem
  · exact ⟨.init _ _, rfl, formatFM_of_masked 0x1⟩
  · exact ⟨.reset _ _, rfl, formatFM_of_masked 0x2⟩
  · exact ⟨.advance _, rfl, formatFN_of_masked 0x3⟩
  · exact ⟨.flush, rfl, formatF0_of_masked 0x4⟩
  · exact ⟨.sample _, rfl, formatFN_of_masked 0x5⟩
  · exact ⟨.setBorder _, rfl, formatFC_of_masked 0x6⟩
  · exact ⟨.setOverlay _, rfl, formatF1_of_masked 0x7⟩
  · exact ⟨.setFlash _, rfl, formatF1_of_masked 0x8⟩
  · refine ⟨.setLatch _, rfl, ?_⟩
    rw [encode, bankOfBit_bit]
    exact formatF1_of_masked 0x9
  · exact ⟨.setCycles _, rfl, formatFN_of_masked 0xA⟩
  · exact ⟨.frameWrap, rfl, formatF0_of_masked 0xB⟩
  · exact ⟨.poke _ _ _, rfl, formatFP_of_masked 0xC⟩

/-! ### What the decoder answers (R115 to R118) -/

theorem decode_eq_ok_iff {w : Word} {i : Instr} :
    decode w = .ok i ↔
      ∃ row ∈ opcodeTable, opField w = row.op ∧ fieldsOf w = some i ∧
        w &&& row.mask = row.pattern := by
  unfold decode
  constructor
  · intro h
    split at h
    next row j hrow hfields =>
      obtain ⟨hmem, hop⟩ := rowOf_eq_some_iff.mp hrow
      split at h
      next hmatch => cases h; exact ⟨row, hmem, hop, hfields, hmatch⟩
      next => cases h
    next => cases h
  · rintro ⟨row, hmem, hop, hfields, hmatch⟩
    simp [rowOf_eq_some_iff.mpr ⟨hmem, hop⟩, hfields, hmatch]

theorem decode_ok_iff_masked (w : Word) :
    (∃ i, decode w = .ok i) ↔ ∃ row ∈ opcodeTable, w &&& row.mask = row.pattern := by
  constructor
  · rintro ⟨i, h⟩
    obtain ⟨row, hmem, -, -, hmatch⟩ := decode_eq_ok_iff.mp h
    exact ⟨row, hmem, hmatch⟩
  · rintro ⟨row, hmem, hmatch⟩
    have hop := opField_of_masked hmem hmatch
    obtain ⟨i, hfields, -⟩ := fieldsOf_of_mem hmem hop
    exact ⟨i, decode_eq_ok_iff.mpr ⟨row, hmem, hop, hfields, hmatch⟩⟩

theorem decode_reserved {w : Word}
    (h : opField w = 0x0 ∨ opField w = 0xD ∨ opField w = 0xE ∨ opField w = 0xF) :
    decode w = .error .reservedOpcode := by
  rw [decode, rowOf_reserved h]

theorem decode_mismatch {w : Word} {row : OpcodeRow} (hmem : row ∈ opcodeTable)
    (hop : opField w = row.op) (hmatch : w &&& row.mask ≠ row.pattern) :
    decode w = .error .reservedBits := by
  obtain ⟨i, hfields, -⟩ := fieldsOf_of_mem hmem hop
  simp [decode, rowOf_eq_some_iff.mpr ⟨hmem, hop⟩, hfields, hmatch]

/-- A word that is the word of a command decodes to it. -/
theorem decode_of_encode_eq {w : Word} {i : Instr} (h : encode i = w) : decode w = .ok i :=
  h ▸ decode_encode i

theorem applyWord_of_error {w : Word} {e : DecodeError} (h : decode w = .error e) (s : State) :
    applyWord w s = applyCommand s (raise .illegalCommand) := by
  rw [applyWord, h]

/-- A word that spells no command raises IllegalCommand and changes nothing else, the host's list
moving on (R115, R116). -/
theorem step_illegalCommand {w : Word} {e : DecodeError} (hd : decode w = .error e) {s : State}
    {rest : List HostInput} (ha : s.configs.admitted = true) (hf : s.fault = none)
    (hs : s.inputs = .command w :: rest) :
    step s = .next { s with inputs := rest, fault := some .illegalCommand } := by
  rw [step_of_inputs_cons ha hs, applyInput, applyWord_of_error hd]
  exact applyCommand_running (s := { s with inputs := rest }) hf _

/-! ### The statements about words -/

/-- Settles O1: the word matches the row of the command's opcode, and each field is read back. -/
theorem decodeEncodeAgree : Obligations.DecodeEncodeAgree := decode_encode

/-- Settles O2: the row's mask and the fields of its format cover the word. -/
theorem decodedWordEncodesBack : Obligations.DecodedWordEncodesBack := by
  intro w i h
  obtain ⟨row, hmem, hop, hfields, hmatch⟩ := decode_eq_ok_iff.mp h
  obtain ⟨j, hj, hencode⟩ := fieldsOf_of_mem hmem hop
  obtain rfl : i = j := Option.some.inj (hfields.symm.trans hj)
  exact hencode hmatch

/-- Settles O3: a reserved OP has no row. -/
theorem reservedOpcodeRaisesIllegalCommand : Obligations.ReservedOpcodeRaisesIllegalCommand := by
  refine ⟨fun w hop => ?_, rfl⟩
  have hd := decode_reserved hop
  exact ⟨fun i hi => (nomatch hd.symm.trans hi), fun s rest => step_illegalCommand hd⟩

/-- Settles O4: the rows have different opcodes, so a word can match no row but its own OP's. -/
theorem reservedBitRaisesIllegalCommand : Obligations.ReservedBitRaisesIllegalCommand :=
  ⟨decode_ok_iff_masked, fun _ _ hmem hop hmatch _ _ =>
    step_illegalCommand (decode_mismatch hmem hop hmatch)⟩

/-- Settles O5: eleven of the words are the words of their commands. -/
theorem wordsOfTheSpecDecode : Obligations.WordsOfTheSpecDecode :=
  ⟨decode_of_encode_eq rfl, decode_of_encode_eq rfl, decode_of_encode_eq rfl,
    decode_of_encode_eq rfl, decode_of_encode_eq rfl, decode_of_encode_eq rfl,
    decode_of_encode_eq rfl, decode_of_encode_eq rfl, decode_of_encode_eq rfl,
    decode_of_encode_eq rfl, decode_of_encode_eq rfl, rfl, rfl⟩

/-- Settles O45: the command's body writes CYC only, and the count field starts at bit 0. -/
theorem setCyclesWritesCycOnly : Obligations.SetCyclesWritesCycOnly := by
  refine ⟨fun s n hf => ⟨_, exec_running hf _, rfl, zextCount_toNat n⟩, fun n => ?_, rfl⟩
  rw [encode, formatFN, placed_zero]
  rfl

/-! ### The operands of an assembly line (R119) -/

/-- A number's range takes in numbers only, no aspect ratio. -/
theorem AsmOperand.below_iff {o : AsmOperand} {bound : Nat} :
    o.below bound = true ↔ ∃ n < bound, o = .number n := by
  cases o <;> simp [AsmOperand.below]

theorem below_number_iff {n bound : Nat} :
    (AsmOperand.number n).below bound = true ↔ n < bound := decide_eq_true_iff

theorem below_number_iff_le {n last : Nat} :
    (AsmOperand.number n).below (last + 1) = true ↔ n ≤ last := by
  rw [below_number_iff, Nat.lt_succ_iff]

theorem machineOfOperand_eq (m : AsmOperand) :
    machineOfOperand m = if m = .number 128 ∨ m = .number 1 then .m128 else .m48 := by
  unfold machineOfOperand
  split <;> simp_all

theorem aspectOfOperand_eq (a : AsmOperand) :
    aspectOfOperand a = if a = .ratio 16 9 ∨ a = .number 1 then .a169 else .a43 := by
  unfold aspectOfOperand
  split <;> simp_all

theorem bankOfBit_bitOfOperand (n : Nat) :
    bankOfBit (bitOfOperand (.number n)) = if n = 1 then .bank1 else .bank0 := by
  simp [bankOfBit, bitOfOperand, numberOfOperand]

theorem hasForm_of_wf {mn : AsmMnemonic} {ops : List AsmOperand}
    (h : AsmLine.wf ⟨mn, ops⟩ = true) : HasForm ops mn := by
  simp only [AsmLine.wf] at h
  split at h
  case h_1 m a | h_2 m a | h_3 m a => exact ⟨m, a, rfl⟩
  case h_4 n | h_5 n | h_6 n | h_7 n | h_8 n | h_9 n | h_10 n =>
    obtain ⟨k, -, rfl⟩ := AsmOperand.below_iff.mp h
    exact ⟨k, rfl⟩
  case h_11 b o d =>
    simp only [Bool.and_eq_true, AsmOperand.below_iff] at h
    obtain ⟨⟨⟨b, -, rfl⟩, o, -, rfl⟩, d, -, rfl⟩ := h
    exact ⟨b, o, d, rfl⟩
  case h_12 | h_13 | h_14 | h_15 => rfl
  case h_16 => cases h

/-- The form of the operands is enough for a line to have commands; LINE also needs a CPL that
fits ADVANCE (log entry 16). -/
theorem commandsOf_isSome {cpl : Nat} (hcpl : cpl < 2 ^ 24) {mn : AsmMnemonic}
    {ops : List AsmOperand} (h : HasForm ops mn) : (commandsOf cpl ⟨mn, ops⟩).isSome = true := by
  cases mn with
  | init | reset | setup => obtain ⟨m, a, rfl⟩ := h; rfl
  | advance | sample | setCycles | setBorder | setOverlay | setFlash | setLatch =>
    obtain ⟨n, rfl⟩ := h; rfl
  | poke => obtain ⟨b, o, d, rfl⟩ := h; rfl
  | flush | frameWrap | endframe => cases h; rfl
  | line => cases h; exact congrArg Option.isSome (if_pos hcpl)

/-! ### What the assembler answers (R119, R312) -/

theorem assembleLine_of_wf (cpl : Nat) {l : AsmLine} (h : l.wf = true) :
    assembleLine cpl l = commandsOf cpl l := if_pos h

theorem assembleLine_of_not_wf (cpl : Nat) {l : AsmLine} (h : l.wf = false) :
    assembleLine cpl l = none := by
  simp [assembleLine, h]

/-- A line's range check in the rule's form carries over to what the line assembles to. -/
theorem assembleLine_eq_ite {cpl : Nat} {l : AsmLine} {inRange : Prop} [Decidable inRange]
    {commands : List Instr} (hwf : l.wf = true ↔ inRange)
    (hcommands : commandsOf cpl l = some commands) :
    assembleLine cpl l = if inRange then some commands else none := by
  simp only [assembleLine, hwf, hcommands]

theorem assemble_refuses (cpl : Nat) {ls : List AsmLine} (h : ∃ l ∈ ls, l.wf = false) :
    assemble cpl ls = none := by
  induction ls with
  | nil => simp at h
  | cons l ls ih =>
    rw [assemble]
    obtain hl | hls := (List.exists_mem_cons_iff ..).mp h
    · simp [assembleLine_of_not_wf cpl hl]
    · simp [ih hls]

theorem assembleLine_mode (cpl : Nat) (m a : AsmOperand) :
    let variant : Variant := if m = .number 128 ∨ m = .number 1 then .m128 else .m48
    let aspect : Aspect := if a = .ratio 16 9 ∨ a = .number 1 then .a169 else .a43
    assembleLine cpl ⟨.init, [m, a]⟩ =
      (if m.IsMachine ∧ a.IsAspect then some [.init variant aspect] else none) ∧
    assembleLine cpl ⟨.reset, [m, a]⟩ =
      (if m.IsMachine ∧ a.IsAspect then some [.reset variant aspect] else none) := by
  intro variant aspect
  have hwf : (decide m.IsMachine && decide a.IsAspect) = true ↔ m.IsMachine ∧ a.IsAspect := by
    rw [Bool.and_eq_true, decide_eq_true_eq, decide_eq_true_eq]
  have hcommands (c : Variant → Aspect → Instr) :
      some [c (machineOfOperand m) (aspectOfOperand a)] = some [c variant aspect] := by
    rw [machineOfOperand_eq, aspectOfOperand_eq]
  exact ⟨assembleLine_eq_ite hwf (hcommands .init), assembleLine_eq_ite hwf (hcommands .reset)⟩

theorem assembleLine_count (cpl n : Nat) :
    assembleLine cpl ⟨.advance, [.number n]⟩ =
      (if n < 2 ^ 24 then some [.advance (BitVec.ofNat 24 n)] else none) ∧
    assembleLine cpl ⟨.sample, [.number n]⟩ =
      (if n < 2 ^ 24 then some [.sample (BitVec.ofNat 24 n)] else none) ∧
    assembleLine cpl ⟨.setCycles, [.number n]⟩ =
      (if n < 2 ^ 24 then some [.setCycles (BitVec.ofNat 24 n)] else none) :=
  ⟨assembleLine_eq_ite below_number_iff rfl, assembleLine_eq_ite below_number_iff rfl,
    assembleLine_eq_ite below_number_iff rfl⟩

theorem assembleLine_colour (cpl c : Nat) :
    assembleLine cpl ⟨.setBorder, [.number c]⟩ =
      if c ≤ 7 then some [.setBorder (BitVec.ofNat 3 c)] else none :=
  assembleLine_eq_ite below_number_iff_le rfl

theorem assembleLine_bit (cpl v : Nat) :
    assembleLine cpl ⟨.setOverlay, [.number v]⟩ =
      (if v ≤ 1 then some [.setOverlay (v == 1)] else none) ∧
    assembleLine cpl ⟨.setFlash, [.number v]⟩ =
      (if v ≤ 1 then some [.setFlash (v == 1)] else none) ∧
    assembleLine cpl ⟨.setLatch, [.number v]⟩ =
      (if v ≤ 1 then some [.setLatch (if v = 1 then .bank1 else .bank0)] else none) := by
  refine ⟨assembleLine_eq_ite below_number_iff_le rfl, assembleLine_eq_ite below_number_iff_le rfl,
    assembleLine_eq_ite below_number_iff_le ?_⟩
  rw [← bankOfBit_bitOfOperand]
  rfl

theorem assembleLine_poke (cpl b o d : Nat) :
    assembleLine cpl ⟨.poke, [.number b, .number o, .number d]⟩ =
      if b ≤ 1 ∧ o < 16384 ∧ d ≤ 255 then
        some [.poke (if b = 1 then .bank1 else .bank0) (BitVec.ofNat 14 o) (BitVec.ofNat 8 d)]
      else none := by
  refine assembleLine_eq_ite ?_ ?_
  · rw [AsmLine.wf, Bool.and_eq_true, Bool.and_eq_true, below_number_iff_le, below_number_iff,
      below_number_iff_le, and_assoc]
  · rw [← bankOfBit_bitOfOperand]
    rfl

/-! ### The statements about the assembler -/

/-- Settles O60: a line out of range has no commands and the list none either; a line's form gives
its commands, and for each mnemonic the model's check is the rule's range. -/
theorem outOfRangeOperandsAreRefused : Obligations.OutOfRangeOperandsAreRefused := by
  refine ⟨fun cpl ls h => assemble_refuses cpl h, fun cpl l hcpl h => ?_, fun cpl l h => ?_,
    assembleLine_mode, assembleLine_count, assembleLine_colour, assembleLine_bit,
    assembleLine_poke, fun cpl => ⟨rfl, rfl⟩⟩
  · rw [assembleLine_of_wf cpl h]
    exact commandsOf_isSome hcpl (hasForm_of_wf h)
  · cases hwf : l.wf with
    | true => exact hasForm_of_wf hwf
    | false =>
      rw [assembleLine_of_not_wf cpl hwf] at h
      cases h

/-- Settles O59: SETUP is its own list because the operands it hands on to INIT are in range; LINE
and ADVANCE CPL are refused alike when CPL does not fit. -/
theorem pseudoCommandsExpand : Obligations.PseudoCommandsExpand := by
  refine ⟨fun cpl m a hm ha => ?_, fun cpl => rfl, fun cpl => ?_⟩
  · have hwf : (decide m.IsMachine && decide a.IsAspect) = true := by
      rw [decide_eq_true hm, decide_eq_true ha]
      rfl
    have hinit := assembleLine_of_wf cpl (l := ⟨.init, [m, a]⟩) hwf
    rw [assembleLine_of_wf cpl (l := ⟨.setup, [m, a]⟩) hwf]
    simp only [assemble, hinit]
    rfl
  · exact (assembleLine_count cpl cpl).1.symm

end Sys2Proof

/-! PROOFS. The statements of spec/40_color_attribute_lut.md: what a successful INIT leaves in
PALETTE, the border words and the ALU table. An index into a table comes first, then the lanes of a
packed word and the two colour indices of an attribute. -/

namespace Sys2Proof

open Sys2Proof.Machine Sys2Proof.Claims

/-- A successful INIT leaves PALETTE, ALU and BORDER_WORD as built from CFG (R147, R261). -/
theorem afterInit_tables {m : Variant} {a : Aspect} {s t : State} (h : AfterInit m a s t) :
    t.palette = buildPalette t.cfg ∧ t.alu = buildAluTable t.palette ∧
      t.borderWord = buildBorderWords t.palette := by
  obtain ⟨hf, hexec, hready⟩ := h
  obtain rfl : commandBody (.init m a) s = t :=
    Host.Outcome.next.inj ((exec_running hf _).symm.trans hexec)
  obtain ⟨hpalette, halu, -, -, hborder, -⟩ := initialise_tablesOk ⟨m, a⟩ s hready
  exact ⟨hpalette, hpalette ▸ halu, hpalette ▸ hborder⟩

/-! ### PALETTE and the border words (R140, R163) -/

theorem paletteAt_ofNat (p : Palette) {k : Nat} (h : k < 16) :
    paletteAt p (BitVec.ofNat 4 k) = p.get ⟨k, h⟩ := by
  have hindex : (BitVec.ofNat 4 k).toFin = ⟨k, h⟩ := Fin.ext (Nat.mod_eq_of_lt h)
  rw [paletteAt, hindex]

theorem buildPalette_get (c : Cfg) (k : Fin 16) :
    (buildPalette c).get k = deviceColour c (c.rawColors.get k) := by
  rw [buildPalette, tabulate_get, paletteAt_ofNat _ k.isLt]

theorem buildBorderWords_get (p : Palette) (c : Fin 8) :
    (buildBorderWords p).get c = replicate4 (p.get ⟨c, by omega⟩) := by
  rw [buildBorderWords, tabulate_get, paletteAt_ofNat]

/-- Lane k of four packed pixels is pixel k (R86, R149). -/
theorem lane_pack (pixel : Nat → Byte) {k : Nat} (hk : k < 4) :
    lane (pack (pixel 0) (pixel 1) (pixel 2) (pixel 3)) k = pixel k := by
  interval_cases k
  · exact lane_pack_0 ..
  · exact lane_pack_1 ..
  · exact lane_pack_2 ..
  · exact lane_pack_3 ..

theorem lane_replicate4 (p : Byte) {k : Nat} (hk : k < 4) : lane (replicate4 p) k = p :=
  lane_pack (fun _ => p) hk

/-- Settles O15: both tables are the built ones, and each lane of a border word is its colour. -/
theorem paletteAndBorderWordsAreBuilt : Obligations.PaletteAndBorderWordsAreBuilt := by
  intro m a s t h
  obtain ⟨hpalette, -, hborder⟩ := afterInit_tables h
  refine ⟨fun k => ?_, fun c k hk => ?_⟩
  · rw [hpalette, buildPalette_get, deviceColour]
  · rw [hborder, buildBorderWords_get, lane_replicate4 _ hk]

/-! ### Slots and colour indices of an ALU entry (R143 to R145) -/

/-- Lane k of an ALU entry is the pixel of slot k (R145, R149). -/
theorem lane_aluEntry (p : Palette) (n : BitVec 4) (a : Byte) {k : Nat} (hk : k < 4) :
    lane (aluEntry p n a) k = selectPixel p n a k :=
  lane_pack (selectPixel p n a) hk

/-- The colour index {bright, colour} as the sum 8·bright + colour (R141). -/
theorem bright_append_colour (bright : BitVec 1) (colour : BitVec 3) :
    bright ++ colour = BitVec.ofNat 4 (8 * bright.toNat + colour.toNat) := by
  apply BitVec.eq_of_toNat_eq
  have hsum : 8 * bright.toNat + colour.toNat < 2 ^ (1 + 3) := by omega
  rw [BitVec.toNat_append, ← Nat.shiftLeft_add_eq_or_of_lt colour.isLt, Nat.shiftLeft_eq,
    Nat.mul_comm, BitVec.toNat_ofNat, Nat.mod_eq_of_lt hsum]

/-- Settles O16: the slot's lane is the pixel selected, whose index is {bright, colour}. -/
theorem aluTableRoundTrip : Obligations.AluTableRoundTrip := by
  intro m a s t h n attr k hk
  obtain ⟨-, halu, -⟩ := afterInit_tables h
  rw [halu, aluAt_buildAluTable, lane_aluEntry _ _ _ hk, selectPixel]
  split
  · rw [inkIndex, bright_append_colour]
  · rw [paperIndex, bright_append_colour]

/-! ### The flash bit (R146) -/

/-- A field of the attribute below bit 7 does not see the flash bit cleared (R143). -/
theorem extractLsb'_clearFlash (a : Byte) {start len : Nat} (h : start + len ≤ 7) :
    (a &&& 0x7F).extractLsb' start len = a.extractLsb' start len := by
  have hmask : ∀ b < 7, (0x7F : Byte).getLsbD b = true := by decide
  apply BitVec.eq_of_getLsbD_eq
  intro i hi
  rw [BitVec.getLsbD_extractLsb', BitVec.getLsbD_and, hmask (start + i) (by omega), Bool.and_true,
    BitVec.getLsbD_extractLsb']

theorem inkIndex_clearFlash (a : Byte) : inkIndex (a &&& 0x7F) = inkIndex a := by
  rw [inkIndex, extractLsb'_clearFlash a (by decide), extractLsb'_clearFlash a (by decide),
    inkIndex]

theorem paperIndex_clearFlash (a : Byte) : paperIndex (a &&& 0x7F) = paperIndex a := by
  rw [paperIndex, extractLsb'_clearFlash a (by decide), extractLsb'_clearFlash a (by decide),
    paperIndex]

theorem selectPixel_clearFlash (p : Palette) (n : BitVec 4) (a : Byte) (k : Nat) :
    selectPixel p n (a &&& 0x7F) k = selectPixel p n a k := by
  rw [selectPixel, inkIndex_clearFlash, paperIndex_clearFlash, selectPixel]

/-- Settles O17: an entry sees the attribute through its ink and paper index, which do not take in
bit 7. -/
theorem aluTableIgnoresFlashBit : Obligations.AluTableIgnoresFlashBit := by
  intro m a s t h n attr
  obtain ⟨-, halu, -⟩ := afterInit_tables h
  simp only [halu, aluAt_buildAluTable, aluEntry, selectPixel_clearFlash]

end Sys2Proof

/-! PROOFS. The reference offsets of spec/41_scanline_geometry.md R165: the line a bitmap offset
belongs to is read off the offset's digits, so that the lines tile the bitmap. -/

namespace Sys2Proof

open Sys2Proof.Machine

/-- The formula of R161 on a line given by its third, character row and pixel row: it swaps the
places of the last two. -/
theorem bmpOffset_of_digits :
    ∀ third < 4, ∀ row < 8, ∀ pixel < 8,
      bmpOffset (64 * third + 8 * row + pixel) = 2048 * third + 256 * pixel + 32 * row := by
  decide

theorem bmpOffset_eq_digits {i : Nat} (h : i < 256) :
    bmpOffset i = 2048 * (i / 64) + 256 * (i % 8) + 32 * (i / 8 % 8) := by
  have hdigits : 64 * (i / 64) + 8 * (i / 8 % 8) + i % 8 = i := by omega
  rw [← bmpOffset_of_digits (i / 64) (by omega) (i / 8 % 8) (by omega) (i % 8) (by omega), hdigits]

theorem bmpOffset_injective {i j : Nat} (hi : i < 256) (hj : j < 256)
    (h : bmpOffset i = bmpOffset j) : i = j := by
  rw [bmpOffset_eq_digits hi, bmpOffset_eq_digits hj] at h
  omega

theorem bmpOffset_mod_32 {i : Nat} (h : i < 256) : bmpOffset i % 32 = 0 := by
  rw [bmpOffset_eq_digits h]
  omega

/-- The bitmap of the 192 lines ends at 0x1800 (R165). -/
theorem bmpOffset_lt_bitmapSize {i : Nat} (h : i < 192) : bmpOffset i < 0x1800 := by
  rw [bmpOffset_eq_digits (by omega)]
  omega

/-- The graphics line whose bitmap bytes take in offset x: R161 read backwards. -/
def lineOfOffset (x : Nat) : Nat := 64 * (x / 2048) + 8 * (x / 32 % 8) + x / 256 % 8

theorem lineOfOffset_lt {x : Nat} (h : x < 0x1800) : lineOfOffset x < 192 := by
  rw [lineOfOffset]
  omega

theorem bmpOffset_lineOfOffset {x : Nat} (h : x < 0x1800) :
    bmpOffset (lineOfOffset x) + x % 32 = x := by
  rw [lineOfOffset, bmpOffset_of_digits _ (by omega) _ (by omega) _ (by omega)]
  omega

/-- A byte of the bitmap belongs to one line and one cell: the cell is its offset modulo 32. -/
theorem bmpOffset_add_cell_injective {i j c d : Nat} (hi : i < 256) (hj : j < 256) (hc : c < 32)
    (hd : d < 32) (h : bmpOffset i + c = bmpOffset j + d) : i = j ∧ c = d := by
  have himod := bmpOffset_mod_32 hi
  have hjmod := bmpOffset_mod_32 hj
  have hcell : c = d := by omega
  exact ⟨bmpOffset_injective hi hj (by omega), hcell⟩

/-- The reference configurations have attribute rows of 32 bytes from 0x1800 (R8, R162). -/
theorem attrOffset_referenceCfg (m : Mode) (i : Nat) :
    attrOffset (referenceCfg m) i = (i / 8) * 32 + 0x1800 := rfl

/-- Settles O20: a bitmap offset is the line's digits with two of them swapped, so `lineOfOffset`
inverts it, and W7 is among the checks the reference configurations pass. -/
theorem referenceOffsetsTileTheBank : Obligations.ReferenceOffsetsTileTheBank := by
  refine ⟨fun i hi j hj => bmpOffset_injective (by omega) (by omega),
    fun i hi => ⟨bmpOffset_mod_32 (by omega), bmpOffset_lt_bitmapSize hi⟩, fun x hx => ?_,
    fun m => ⟨?_, fun i hi c hc => ?_⟩⟩
  · have hline := lineOfOffset_lt hx
    have hcell : x % 32 < 32 := Nat.mod_lt x (by decide)
    have hbyte := bmpOffset_lineOfOffset hx
    exact ⟨lineOfOffset x, hline, x % 32, hcell, hbyte, fun i hi c hc h =>
      bmpOffset_add_cell_injective (by omega) (by omega) hc hcell (h.trans hbyte.symm)⟩
  · obtain ⟨-, -, -, -, -, -, hw7, -⟩ := referenceCfg_admitted m
    exact hw7
  · rw [attrOffset_referenceCfg]
    omega

end Sys2Proof

/-! PROOFS. The statements of spec/42_floating_bus.md: what SAMPLE appends outside the fetch, at
each slot inside it, and at the corner cases of the reference M48 configuration. The facts they need
come first: SAMPLE as a function of the adjusted count, the band test, the slots one by one. -/

namespace Sys2Proof

open Sys2Proof.Machine Sys2Proof.Claims

/-! ### The band and phase tests (R182 to R184) -/

section Band

variable {s : State} {t : Nat}

theorem exec_sample (hs : s.Running) (n : Count) :
    exec (.sample n) s =
      .next (if adjusted s n < 0 then emit idleByte s else sampleAt (adjusted s n).toNat s) := by
  obtain ⟨hready, hf⟩ := hs
  rw [exec_running hf, commandBody, sample, if_neg (not_not_intro hready), zextCount_toNat]

/-- A count outside the lines of the band or past the fetching half of its line (R183, R184). -/
theorem sampleAt_idle
    (h : t / s.cfg.cpl < s.cfg.fbLine0 ∨ s.cfg.fbLine0 + s.cfg.screenLines ≤ t / s.cfg.cpl ∨
      s.cfg.firstHalf ≤ t % s.cfg.cpl) :
    sampleAt t s = emit idleByte s := by
  rw [sampleAt, Cfg.fbLines]
  obtain habove | hbelow | hphase := h
  · exact if_pos (.inl habove)
  · exact if_pos (.inr hbelow)
  · rw [if_pos hphase, ite_self]

theorem sampleAt_fetching {g : Nat} (hline : t / s.cfg.cpl = s.cfg.fbLine0 + g)
    (hg : g < s.cfg.screenLines) (hphase : t % s.cfg.cpl < s.cfg.firstHalf) :
    sampleAt t s = sampleSlot g (t % s.cfg.cpl) s := by
  rw [sampleAt, Cfg.fbLines, if_neg (by omega), if_neg (by omega), hline, Nat.add_sub_cancel_left]

end Band

/-! ### The slots (R185, R186) -/

section Slots

variable {s : State} {g phase : Nat}

theorem emitFetched_written {b : Bank} (h : s.latch = some b) (off : Offset) :
    emitFetched off s = emit (Memory.read s.vram b off) s := by
  rw [emitFetched, readLatch_written h]

theorem emitFetched_unwritten (h : s.latch = none) (off : Offset) :
    emitFetched off s = raise (.unwrittenInput .latch) s := by
  rw [emitFetched, readLatch, h, readInput_none]

theorem sampleSlot_bitmap (h : phase % 8 = 0) :
    sampleSlot g phase s = emitFetched (bmpAt s g (2 * (phase / 8))) s := by
  rw [sampleSlot, h]; rfl

theorem sampleSlot_attribute (h : phase % 8 = 1) :
    sampleSlot g phase s = emitFetched (attrAt s g (2 * (phase / 8))) s := by
  rw [sampleSlot, h]; rfl

theorem sampleSlot_nextBitmap (h : phase % 8 = 2) :
    sampleSlot g phase s = emitFetched (bmpAt s g (2 * (phase / 8) + 1)) s := by
  rw [sampleSlot, h]; rfl

theorem sampleSlot_nextAttribute (h : phase % 8 = 3) :
    sampleSlot g phase s = emitFetched (attrAt s g (2 * (phase / 8) + 1)) s := by
  rw [sampleSlot, h]; rfl

theorem sampleSlot_idle (h : 4 ≤ phase % 8) : sampleSlot g phase s = emit idleByte s := by
  rw [sampleSlot]
  split
  case h_5 => rfl
  all_goals omega

/-- The fetching slots all read video memory. -/
theorem sampleSlot_fetches (h : phase % 8 < 4) :
    ∃ off, sampleSlot g phase s = emitFetched off s := by
  obtain h0 | h1 | h2 | h3 :
      phase % 8 = 0 ∨ phase % 8 = 1 ∨ phase % 8 = 2 ∨ phase % 8 = 3 := by omega
  · exact ⟨_, sampleSlot_bitmap h0⟩
  · exact ⟨_, sampleSlot_attribute h1⟩
  · exact ⟨_, sampleSlot_nextBitmap h2⟩
  · exact ⟨_, sampleSlot_nextAttribute h3⟩

end Slots

/-! ### What SAMPLE appends (R180) -/

/-- Settles O21: a negative count fails the first test of the body; from a count of at least 0 the
signed division is the one of natural numbers. -/
theorem sampleIsIdleOutsideTheFetch : Obligations.SampleIsIdleOutsideTheFetch := by
  intro s n hs h
  rw [exec_sample hs]
  by_cases hneg : adjusted s n < 0
  · rw [if_pos hneg]; rfl
  · obtain ⟨t, ht⟩ := Int.eq_ofNat_of_zero_le (Int.not_lt.mp hneg)
    rw [if_neg hneg, ht, Int.toNat_natCast, sampleAt_idle]
    · rfl
    · rw [ht] at h
      exact_mod_cast h.resolve_left (by omega)

/-- Settles O22: past the tests SAMPLE is its slot, which reads LATCH exactly when it fetches. -/
theorem sampleReadsTheFetchedByte : Obligations.SampleReadsTheFetchedByte := by
  rintro s n _ _ g hs hpos rfl rfl hline hg hphase
  have hslot := exec_sample hs n
  rw [if_neg (Int.not_lt.mpr hpos), sampleAt_fetching hline hg hphase] at hslot
  generalize (adjusted s n).toNat % s.cfg.cpl = phase at hslot
  rw [hslot]
  refine ⟨fun h => ?_, fun h hlatch => ?_, fun b hlatch =>
    ⟨fun h => ?_, fun h => ?_, fun h => ?_, fun h => ?_⟩⟩
  · rw [sampleSlot_idle h]; rfl
  · obtain ⟨off, hoff⟩ := sampleSlot_fetches (s := s) (g := g) h
    rw [hoff, emitFetched_unwritten hlatch]; rfl
  · rw [sampleSlot_bitmap h, emitFetched_written hlatch]; rfl
  · rw [sampleSlot_attribute h, emitFetched_written hlatch]; rfl
  · rw [sampleSlot_nextBitmap h, emitFetched_written hlatch]; rfl
  · rw [sampleSlot_nextAttribute h, emitFetched_written hlatch]; rfl

/-! ### The reference M48 configuration (R189) -/

theorem runCommands_cons {i : Instr} {s t : State} (h : exec i s = .next t) (rest : List Instr) :
    runCommands (i :: rest) s = runCommands rest t := by
  rw [runCommands, h]

/-- A running machine with the sampler's parameters of the reference M48 configuration, the same
under both aspects (R8), and its bitmap offsets built. -/
structure ReferenceM48 (s : State) : Prop where
  running : s.Running
  cpl : s.cfg.cpl = 224
  fbOffset : s.cfg.fbOffset = 0
  fbLine0 : s.cfg.fbLine0 = 64
  screenLines : s.cfg.screenLines = 192
  firstHalf : s.cfg.firstHalf = 128
  bmpOff : s.bmpOff = buildBmpOff s.cfg

theorem referenceM48_of_tablesOk {s : State} (hs : s.Running) (hc : s.configs = referenceConfigs)
    (hv : s.mode.variant = .m48) (ht : s.TablesOk) : ReferenceM48 s := by
  have ⟨hready, _⟩ := hs
  obtain ⟨-, -, hbmp, -⟩ := ht hready
  have hcfg : s.cfg = referenceCfg s.mode := by rw [State.cfg, hc, referenceConfigs_select]
  refine ⟨hs, ?_, ?_, ?_, ?_, ?_, hbmp⟩ <;> rw [hcfg, referenceCfg, hv]

namespace ReferenceM48

variable {s : State}

theorem adjusted_eq (h : ReferenceM48 s) (n : Count) : adjusted s n = n.toNat := by
  rw [adjusted, h.fbOffset, Int.add_zero]

/-- Line 64 begins at 64·224 = 14336, line 256 at 57344. -/
theorem sample_outside_lines (h : ReferenceM48 s) {n : Count}
    (hn : n.toNat < 14336 ∨ 57344 ≤ n.toNat) :
    exec (.sample n) s = .next { s with out := s.out ++ [0xFF] } := by
  refine sampleIsIdleOutsideTheFetch s n h.running ?_
  rw [h.adjusted_eq, h.cpl, h.fbLine0, h.screenLines]
  omega

/-- The phases from FIRST_HALF = 128 to the end of a line of CPL = 224 cycles. -/
theorem sample_second_half (h : ReferenceM48 s) {n : Count} (hn : 128 ≤ n.toNat % 224) :
    exec (.sample n) s = .next { s with out := s.out ++ [0xFF] } := by
  refine sampleIsIdleOutsideTheFetch s n h.running ?_
  rw [h.adjusted_eq, h.cpl, h.firstHalf]
  omega

/-- Count 14463 is phase 127 of line 64, slot 7. -/
theorem sample_last_slot (h : ReferenceM48 s) :
    exec (.sample 14463) s = .next { s with out := s.out ++ [0xFF] } := by
  have hcount : (adjusted s 14463).toNat = 14463 := by rw [h.adjusted_eq]; rfl
  obtain ⟨hidle, -⟩ := sampleReadsTheFetchedByte s 14463 64 127 0 h.running
    (by rw [h.adjusted_eq]; decide) (by rw [hcount, h.cpl]) (by rw [hcount, h.cpl])
    (by rw [h.fbLine0]) (by rw [h.screenLines]; decide) (by rw [h.firstHalf]; decide)
  exact hidle (by decide)

/-- Count 14336 is phase 0 of line 64, the bitmap byte of cell 0 of graphics line 0. -/
theorem sample_first_slot (h : ReferenceM48 s) {b : Bank} (hlatch : s.latch = some b) :
    exec (.sample 14336) s = .next { s with out := s.out ++ [Memory.read s.vram b 0x0000] } := by
  have hcount : (adjusted s 14336).toNat = 14336 := by rw [h.adjusted_eq]; rfl
  have hlines : 0 < s.cfg.screenLines := by rw [h.screenLines]; decide
  have hoff : bmpAt s 0 (2 * (0 / 8)) = 0x0000 := by
    rw [bmpAt, h.bmpOff, buildBmpOff_getD hlines]; rfl
  obtain ⟨-, -, hfetch⟩ := sampleReadsTheFetchedByte s 14336 64 0 0 h.running
    (by rw [h.adjusted_eq]; decide) (by rw [hcount, h.cpl]) (by rw [hcount, h.cpl])
    (by rw [h.fbLine0]) hlines (by rw [h.firstHalf]; decide)
  obtain ⟨hbitmap, -⟩ := hfetch b hlatch
  rw [hbitmap rfl, hoff]

/-- POKE and SET_LATCH write nothing else the sampler reads (R267, R270). -/
theorem withMemory (h : ReferenceM48 s) (m : List Host.Cell) (l : Option Bank) :
    ReferenceM48 { s with vram := m, latch := l } :=
  ⟨h.running, h.cpl, h.fbOffset, h.fbLine0, h.screenLines, h.firstHalf, h.bmpOff⟩

/-- SAMPLE 14336 reads the byte poked at offset 0x0000 of the bank latched. -/
theorem sample_after_poke (h : ReferenceM48 s) (b : Bank) (d : Byte) :
    runCommands [.poke b 0x0000 d, .setLatch b, .sample 14336] s = .next
      { s with vram := Memory.write s.vram b 0x0000 d, latch := some b, out := s.out ++ [d] } := by
  obtain ⟨-, hf⟩ := h.running
  have hsample := (h.withMemory (Memory.write s.vram b 0x0000 d) (some b)).sample_first_slot rfl
  rw [Memory.read_write_same] at hsample
  have hpoked : (commandBody (.poke b 0x0000 d) s).fault = none := hf
  rw [runCommands_cons (exec_running hf _), runCommands_cons (exec_running hpoked _)]
  exact runCommands_cons hsample []

end ReferenceM48

/-- Settles O23: the counts lie outside the lines of the band, in the second half of a line, or in
the slots 0 and 7 of its first line. -/
theorem sampleCornerCases : Obligations.SampleCornerCases := by
  intro s b hs hc hv ht hlatch
  have h := referenceM48_of_tablesOk hs hc hv ht
  exact ⟨h.sample_outside_lines (by decide), h.sample_first_slot hlatch, h.sample_last_slot,
    h.sample_second_half (by decide), h.sample_second_half (by decide),
    h.sample_outside_lines (by decide), fun n => h.sample_outside_lines, _,
    h.sample_after_poke .bank0 0x5A, rfl⟩

end Sys2Proof

/-! PROOFS. The statements of spec/43_raster.md, first part: what one ADVANCE does. What the draw
body leaves of a row, when no input it reads is unwritten, is said once, as `RowDrawn`. -/

namespace Sys2Proof

open Sys2Proof.Machine Sys2Proof.Claims

/-! ### ADVANCE that draws nothing (R203, R204) -/

/-- Settles O26: BLANK waits for a count below FIRST_THRESH. -/
theorem advanceInBlankStartsAFrame : Obligations.AdvanceInBlankStartsAFrame := by
  intro s n ⟨hv, hf⟩ hp hn
  rw [exec_advance hf, advance_blank hv hn hp, countCycles, cyc_add_ofNat]
  exact ⟨fun h => by rw [if_pos h], fun h => by rw [if_neg (Nat.not_lt.mpr h)]⟩

/-- Settles O27: a wait sub-state ends at TARGET only. -/
theorem advanceBeforeTheBoundaryOnlyCounts : Obligations.AdvanceBeforeTheBoundaryOnlyCounts := by
  intro s n ⟨hv, hf⟩ hp hn ht
  rw [exec_advance hf, advance_wait hv hn hp, if_pos ht, countCycles, cyc_add_ofNat]

theorem countCycles_zero (s : State) : countCycles 0 s = s := by
  simp [countCycles]

/-! ### No cycle is lost (R202, R221) -/

@[simp] theorem emitUnits_cyc (k : Nat) (s : State) : (emitUnits k s).cyc = s.cyc := by
  obtain ⟨p, l, u, fb, bc, f, hframe⟩ := emitUnits_frame k s
  rw [hframe]

@[simp] theorem emitUnits_target (k : Nat) (s : State) : (emitUnits k s).target = s.target := by
  obtain ⟨p, l, u, fb, bc, f, hframe⟩ := emitUnits_frame k s
  rw [hframe]

@[simp] theorem emitUnits_carry (k : Nat) (s : State) : (emitUnits k s).carry = s.carry := by
  obtain ⟨p, l, u, fb, bc, f, hframe⟩ := emitUnits_frame k s
  rw [hframe]

/-- An ADVANCE n that raises no fault adds n to CYC, and CYC does not wrap (R202). -/
theorem advance_cyc {n : Nat} {s : State} (hf : s.fault = none) (h : (advance n s).fault = none) :
    (advance n s).cyc.toNat = s.cyc.toNat + n := by
  generalize hanswer : advance n s = t at h ⊢
  cases advance_cases hf hanswer with
  | notReady | overflow | unlatched => cases h
  | frameStart _ hn | counted _ hn => exact cyc_add_toNat hn
  | crossed _ _ hn | drew _ hn => rw [emitUnits_cyc]; exact cyc_add_toNat hn

/-- A command list that ends with no fault began with none (R300). -/
theorem runCommands_fault_none {is : List Instr} {s t : State} (h : runCommands is s = .next t)
    (ht : t.fault = none) : s.fault = none := by
  induction is generalizing s with
  | nil => cases h; exact ht
  | cons i rest ih =>
    obtain ⟨s', hs'⟩ := exec_next i s
    rw [runCommands_cons hs'] at h
    exact exec_fault_none hs' (ih h)

/-- Settles O37: each ADVANCE adds its operand. -/
theorem cyclesAreConserved : Obligations.CyclesAreConserved := by
  intro ns
  induction ns with
  | nil => intro s t h _; cases h; rfl
  | cons n ns ih =>
    intro s t h ht
    obtain ⟨s', hs'⟩ := exec_next (.advance n) s
    rw [List.map_cons, runCommands_cons hs'] at h
    have hf' := runCommands_fault_none h ht
    have hf := exec_fault_none hs' hf'
    rw [exec_advance hf] at hs'
    cases hs'
    rw [ih _ t h ht, advance_cyc hf hf', List.map_cons, List.sum_cons, Nat.add_assoc]

/-! ### A skipped unit (R211) -/

/-- Settles O32: the loop of the draw body goes on as if the unit were emitted. -/
theorem skippedUnitOnlyCounts : Obligations.SkippedUnitOnlyCounts := by
  intro s hf hskip
  refine ⟨emitUnit_skipped hskip, fun hend => ?_⟩
  rw [emitUnits, emitUnit_skipped hskip, andThen_running hf]
  exact if_neg hend

/-! ### The position of a state that can draw (R33, R34, R54) -/

/-- The machine stands in a row: waiting for its start, or drawing it (R200). -/
abbrev InRow (s : State) : Prop := isWait s.phase = true ∨ isDraw s.phase = true

section CanDraw

variable {s : State}

theorem canDraw_cfg (hs : CanDraw s) : s.cfg.Admitted ∧ s.cfg.Drawable := by
  obtain ⟨-, -, ha, hd, -⟩ := hs
  exact ⟨Configs.admitted_select ha _, Configs.Drawable.select hd _⟩

theorem canDraw_positioned (hs : CanDraw s) : Positioned s := by
  obtain ⟨hrunning, -, -, -, hpos⟩ := hs
  exact hpos hrunning

theorem canDraw_col_wait (hs : CanDraw s) (hp : isWait s.phase = true) : s.col = 0 := by
  obtain ⟨-, ⟨hcol, -⟩, -⟩ := canDraw_positioned hs
  exact hcol (isWait_not_isDraw hp)

/-- The draw sub-state of the row, its line and its first unit left lie in their ranges. -/
theorem canDraw_row (hs : CanDraw s) (hp : InRow s) :
    isDraw (drawOf s.phase) = true ∧ LineInRange s.cfg (drawOf s.phase) s.line ∧
      s.col < s.cfg.units := by
  obtain ⟨-, -, hunits⟩ := canDraw_cfg hs
  obtain ⟨hline, ⟨-, hcol⟩, -⟩ := canDraw_positioned hs
  obtain hp | hp := hp
  · exact ⟨isDraw_drawOf hp, lineInRange_drawOf hp hline, canDraw_col_wait hs hp ▸ hunits⟩
  · rw [drawOf_draw hp]
    exact ⟨hp, hline, hcol hp⟩

theorem canDraw_line_lt (hs : CanDraw s) (hp : InRow s) : s.line < s.cfg.vres := by
  obtain ⟨hdraw, hline, -⟩ := canDraw_row hs hp
  exact line_lt_vres (canDraw_cfg hs).1 hdraw hline

theorem canDraw_target_wait (hs : CanDraw s) (hp : isWait s.phase = true) :
    s.target.toNat = s.cfg.rowStart s.line := by
  obtain ⟨-, -, ⟨-, htarget, -⟩, -⟩ := canDraw_positioned hs
  exact htarget hp

theorem canDraw_target_draw (hs : CanDraw s) (hp : isDraw s.phase = true) :
    s.target.toNat = s.cfg.rowStart (s.line + 1) := by
  obtain ⟨-, -, ⟨-, -, htarget⟩, -⟩ := canDraw_positioned hs
  exact htarget hp

theorem canDraw_carry (hs : CanDraw s) : s.carry.toNat < 4 := by
  obtain ⟨-, -, -, hcarry⟩ := canDraw_positioned hs
  exact hcarry

theorem inRow_of_not_blank (h : s.phase ≠ .blank) : InRow s :=
  (phase_cases s.phase).resolve_left h

end CanDraw

/-! ### The draw body with every input written (R206, R207) -/

/-- With every input written no unit is stopped (R46). -/
theorem blockedOn_eq_none {s : State} (h : s.InputsWritten) (osd : Bool) (p : Phase) (r u : Nat) :
    blockedOn s osd p r u = none := by
  obtain ⟨hborder, hflash, -, hlatch⟩ := h
  obtain ⟨b, hb⟩ := Option.isSome_iff_exists.mp hlatch
  have hborder' : s.border ≠ none := Option.isSome_iff_ne_none.mp hborder
  have hflash' : s.flash ≠ none := Option.isSome_iff_ne_none.mp hflash
  simp [blockedOn, hb, hborder', hflash']

section Row

variable {s : State} {k : Nat}

/-- Short of the row's end the whole budget is painted (R206). -/
theorem emitUnits_short (hf : s.fault = none) (hin : s.InputsWritten) (hfits : RowFits s)
    (hend : s.col + k < s.cfg.units) : emitUnits k s = paintUnits k s :=
  emitUnits_paint k 0 hf hfits hend fun _ _ _ => blockedOn_eq_none hin ..

/-- At the row's end the units left in the row are painted, and those left in the budget dropped
(R206, R207). -/
theorem emitUnits_full (hf : s.fault = none) (hin : s.InputsWritten) (hfits : RowFits s)
    (hcol : s.col < s.cfg.units) (hend : s.cfg.units ≤ s.col + k) :
    emitUnits k s = rowDone (paintUnits (s.cfg.units - s.col) s) := by
  induction k generalizing s with
  | zero => omega
  | succ k ih =>
    rw [emitUnits, emitUnit_unblocked hf hfits hcol (blockedOn_eq_none hin ..)]
    refine (andThen_running (by exact hf) _).trans ?_
    by_cases hlast : s.col + 1 = s.cfg.units
    · rw [show s.cfg.units - s.col = 0 + 1 by omega]
      exact if_pos hlast
    · refine (if_neg (by exact hlast)).trans ((ih (s := paintNext s) hf hin hfits ?_ ?_).trans ?_)
      · rw [paintNext_col, paintNext_cfg]; omega
      · rw [paintNext_col, paintNext_cfg]; omega
      · rw [paintNext_col, paintNext_cfg, ← paintUnits,
          show (s.cfg.units - (s.col + 1)).succ = s.cfg.units - s.col by omega]

/-- The position after a draw body that ends within the row. -/
theorem emitUnits_short_position (hf : s.fault = none) (hin : s.InputsWritten) (hfits : RowFits s)
    (hend : s.col + k < s.cfg.units) :
    (emitUnits k s).phase = s.phase ∧ (emitUnits k s).line = s.line ∧
      (emitUnits k s).col = s.col + k := by
  obtain ⟨fb, bc, hframe⟩ := paintUnits_frame k s
  rw [emitUnits_short hf hin hfits hend, hframe]
  exact ⟨rfl, rfl, rfl⟩

/-- The position after a draw body that completes the row. -/
theorem emitUnits_full_position (hf : s.fault = none) (hin : s.InputsWritten) (hfits : RowFits s)
    (hcol : s.col < s.cfg.units) (hend : s.cfg.units ≤ s.col + k) :
    ((emitUnits k s).phase, (emitUnits k s).line) = nextRow s.cfg s.phase (s.line + 1) ∧
      (emitUnits k s).col = 0 := by
  obtain ⟨fb, bc, hframe⟩ := paintUnits_frame (s.cfg.units - s.col) s
  rw [emitUnits_full hf hin hfits hcol hend, hframe]
  exact ⟨rfl, rfl⟩

/-- Either way FAULT stays clear, and FB holds the units up to the budget's end or the row's. -/
theorem emitUnits_painted (hf : s.fault = none) (hin : s.InputsWritten) (hfits : RowFits s)
    (hcol : s.col < s.cfg.units) :
    ∃ d, s.col + d = min (s.col + k) s.cfg.units ∧ (emitUnits k s).fault = none ∧
      (emitUnits k s).fb = (paintUnits d s).fb := by
  by_cases hend : s.col + k < s.cfg.units
  · obtain ⟨fb, bc, hframe⟩ := paintUnits_frame k s
    refine ⟨k, (Nat.min_eq_left (Nat.le_of_lt hend)).symm, ?_, ?_⟩ <;>
      rw [emitUnits_short hf hin hfits hend]
    rw [hframe]
    exact hf
  · have hend' := Nat.not_lt.mp hend
    obtain ⟨fb, bc, hframe⟩ := paintUnits_frame (s.cfg.units - s.col) s
    refine ⟨s.cfg.units - s.col, ?_, ?_, ?_⟩
    · rw [Nat.min_eq_right hend']; omega
    · rw [emitUnits_full hf hin hfits hcol hend', hframe]; exact hf
    · rw [emitUnits_full hf hin hfits hcol hend']; rfl

end Row

/-- Where a row leads to depends on the row only, its phase following from it (R201, R207). -/
theorem nextRow_eq_afterRow {c : Cfg} {p : Phase} {l : Nat} (hc : c.Admitted) (hd : c.Drawable)
    (hp : isDraw p = true) (hl : LineInRange c p l) : nextRow c p (l + 1) = afterRow c l := by
  obtain ⟨-, ⟨hvres, -, hbb⟩, -⟩ := hc
  obtain ⟨hlines, -⟩ := hd
  obtain ⟨-, htop, hmain, hbot⟩ := hl
  cases p with
  | topDraw =>
    have := htop (.inr rfl)
    simp [nextRow, afterRow, show l + 1 < c.tb + c.screenLines by omega]
  | mainDraw =>
    have := hmain (.inr rfl)
    simp [nextRow, afterRow, show ¬ l + 1 < c.tb by omega, show l + 1 < c.vres by omega]
  | botDraw =>
    have := hbot (.inr rfl)
    simp [nextRow, afterRow, show ¬ l + 1 < c.tb by omega,
      show ¬ l + 1 < c.tb + c.screenLines by omega]
  | blank | topWait | mainWait | botWait => cases hp

/-! ### What a drawing ADVANCE leaves of its row (R205 to R212) -/

/-- `s` with the writes an ADVANCE makes before its draw body: `crossStart` or `drawStart`, with the
count, the boundary, the draw variant and the budget left open (R202, R205, R206). -/
def drawFrom (s : State) (osd : Bool) (budget : Nat) (cyc target : Word) : State :=
  { s with
    cyc := cyc
    carry := BitVec.ofNat 32 (budget % 4)
    target := target
    osdActive := osd
    phase := drawOf s.phase }

/-- `t` is what a draw body with that budget, run to its end under draw variant `osd`, leaves of the
row of `s`, from COL on; `target` is the next boundary (R205 to R212). -/
structure RowDrawn (s : State) (osd : Bool) (budget target : Nat) (t : State) : Prop where
  fault : t.fault = none
  osdActive : t.osdActive = osd
  target : t.target.toNat = target
  carry : t.carry.toNat = budget % 4
  short : s.col + budget / 4 < s.cfg.units →
    t.phase = drawOf s.phase ∧ t.line = s.line ∧ t.col = s.col + budget / 4
  full : s.cfg.units ≤ s.col + budget / 4 → (t.phase, t.line) = afterRow s.cfg s.line ∧ t.col = 0
  painted : ∀ u, s.col ≤ u → u < min (s.col + budget / 4) s.cfg.units →
    UnitHolds s.cfg s.fb t.fb s.line u (wordsDue s osd (drawOf s.phase) s.line u)
  kept : ∀ r j, ¬ (r = s.line ∧ s.cfg.rwo + 2 * s.col ≤ j ∧
      j < s.cfg.rwo + 2 * min (s.col + budget / 4) s.cfg.units) →
    FrameBuffer.read t.fb r j = FrameBuffer.read s.fb r j

/-- The draw body of a state that can draw paints every unit due and meets no fault. -/
theorem emitUnits_rowDrawn {s : State} (hs : CanDraw s) (hp : InRow s) (osd : Bool)
    (budget : Nat) (cyc target : Word) :
    RowDrawn s osd budget target.toNat
      (emitUnits (budget / 4) (drawFrom s osd budget cyc target)) := by
  have ⟨⟨_, hf⟩, hin, _⟩ := hs
  obtain ⟨hc, hd⟩ := canDraw_cfg hs
  obtain ⟨hdraw, hline, hcol⟩ := canDraw_row hs hp
  have hfits : RowFits (drawFrom s osd budget cyc target) := rowFits_of_draw hc hdraw hline
  obtain ⟨d, (hdue : s.col + d = min (s.col + budget / 4) s.cfg.units), hfault, hfb⟩ :=
    emitUnits_painted (s := drawFrom s osd budget cyc target) (k := budget / 4) hf hin hfits hcol
  refine ⟨hfault, emitUnits_osdActive .., congrArg _ (emitUnits_target ..), ?_,
    emitUnits_short_position (s := drawFrom s osd budget cyc target) hf hin hfits, fun hend => ?_,
    fun u hlo hhi => ?_, fun r j hout => ?_⟩
  · rw [emitUnits_carry]
    exact Nat.mod_eq_of_lt (by omega)
  · rw [← nextRow_eq_afterRow hc hd hdraw hline]
    exact emitUnits_full_position (s := drawFrom s osd budget cyc target) hf hin hfits hcol hend
  · rw [hfb]
    exact paintUnits_unitHolds d (s := drawFrom s osd budget cyc target) hlo (hdue ▸ hhi)
  · rw [hfb]
    exact paintUnits_read_other d (s := drawFrom s osd budget cyc target) (hdue ▸ hout)

section Drawing

variable {n : Nat} {s : State}

theorem advance_draw_rowDrawn (hs : CanDraw s) (hn : s.cyc.toNat + n < 2 ^ 32)
    (hp : isDraw s.phase = true) :
    RowDrawn s s.osdActive (n + s.carry.toNat) s.target.toNat (advance n s) := by
  have ⟨⟨hv, _⟩, _⟩ := hs
  have hstart : drawStart n s = drawFrom s s.osdActive (n + s.carry.toNat)
      (s.cyc + BitVec.ofNat 32 n) s.target := by
    rw [drawFrom, drawOf_draw hp, drawStart]
  rw [advance_draw hv hn hp, hstart]
  exact emitUnits_rowDrawn hs (.inr hp) ..

theorem advance_cross_rowDrawn (hs : CanDraw s) (hn : s.cyc.toNat + n < 2 ^ 32)
    (hp : isWait s.phase = true) (ht : s.target.toNat ≤ s.cyc.toNat + n) {v : Bool}
    (ho : s.osdVisible = some v) :
    RowDrawn s v (s.cyc.toNat + n - s.target.toNat) (s.target.toNat + s.cfg.cpl)
      (advance n s) := by
  have ⟨⟨hv, hf⟩, _⟩ := hs
  have htarget : (s.target + BitVec.ofNat 32 s.cfg.cpl).toNat = s.target.toNat + s.cfg.cpl := by
    have hboundary := canDraw_target_wait hs hp
    rw [target_add_cpl_toNat (canDraw_cfg hs).1 (canDraw_line_lt hs (.inl hp)) hboundary,
      rowStart_succ, hboundary]
  have hstart : crossStart n v s = drawFrom s v (s.cyc.toNat + n - s.target.toNat)
      (s.cyc + BitVec.ofNat 32 n) (s.target + BitVec.ofNat 32 s.cfg.cpl) := by
    rw [drawFrom, crossStart, ← canDraw_col_wait hs hp]
  rw [advance_cross hf hv hn hp ht ho, hstart, ← htarget]
  exact emitUnits_rowDrawn hs (.inl hp) ..

/-- A state that can draw takes every ADVANCE that does not overflow CYC without a fault. -/
theorem advance_fault_none (hs : CanDraw s) (hn : s.cyc.toNat + n < 2 ^ 32) :
    (advance n s).fault = none := by
  have ⟨⟨hv, hf⟩, ⟨_, _, hosd, _⟩, _⟩ := hs
  obtain hp | hp | hp := phase_cases s.phase
  · rw [advance_blank hv hn hp]
    split <;> exact hf
  · by_cases ht : s.cyc.toNat + n < s.target.toNat
    · rw [advance_wait hv hn hp, if_pos ht]
      exact hf
    · obtain ⟨v, ho⟩ := Option.isSome_iff_exists.mp hosd
      exact (advance_cross_rowDrawn hs hn hp (Nat.not_lt.mp ht) ho).fault
  · exact (advance_draw_rowDrawn hs hn hp).fault

theorem advance_canDraw (hs : CanDraw s) (hn : s.cyc.toNat + n < 2 ^ 32) :
    CanDraw (advance n s) := by
  have hfault := advance_fault_none hs hn
  obtain ⟨⟨hv, hf⟩, hin, hraster⟩ := hs
  obtain ⟨ha, hd, hpos⟩ := advance_rasterOk n s hf hraster
  have hkept : (advance n s).vstat = .ready ∧ (advance n s).InputsWritten := by
    obtain ⟨p, l, u, ta, ca, cy, o, fb, bc, f, hframe⟩ := advance_frame n s
    rw [hframe]
    exact ⟨hv, hin⟩
  exact ⟨⟨hkept.1, hfault⟩, hkept.2, ha, hd, hpos⟩

end Drawing

/-! ### The statements about a drawing ADVANCE -/

/-- Settles O28: a crossing's draw body has the overshoot for its budget. -/
theorem crossingDrawsTheOvershoot : Obligations.CrossingDrawsTheOvershoot := by
  intro s n hs hp hn ht o
  have ⟨⟨_, hf⟩, ⟨_, _, hosd, _⟩, _⟩ := hs
  obtain ⟨v, ho⟩ := Option.isSome_iff_exists.mp hosd
  have hdrawn := advance_cross_rowDrawn hs hn hp ht ho
  have hshort := hdrawn.short
  have hfull := hdrawn.full
  rw [canDraw_col_wait hs hp, Nat.zero_add] at hshort hfull
  exact ⟨_, exec_advance hf n, hdrawn.fault, advance_cyc hf hdrawn.fault, hdrawn.target,
    hdrawn.carry, hdrawn.osdActive ▸ ho, hshort, hfull⟩

/-- Settles O29: a draw sub-state's draw body has n + CARRY for its budget. -/
theorem drawBodySpendsTheBudget : Obligations.DrawBodySpendsTheBudget := by
  intro s n hs hp hn budget
  have ⟨⟨_, hf⟩, _⟩ := hs
  have hdrawn := advance_draw_rowDrawn hs hn hp
  have hshort := hdrawn.short
  rw [drawOf_draw hp] at hshort
  exact ⟨_, exec_advance hf n, hdrawn.fault, advance_cyc hf hdrawn.fault,
    BitVec.eq_of_toNat_eq hdrawn.target, hdrawn.carry, hdrawn.osdActive, hshort, hdrawn.full⟩

/-- The two words of a unit, with the input values named. -/
theorem wordsDue_of_inputs {s : State} {col : Colour} {b : Bank} {f : Bool}
    (hborder : s.border = some col) (hlatch : s.latch = some b) (hflash : s.flash = some f)
    (osd : Bool) (p : Phase) (r u : Nat) :
    wordsDue s osd p r u = unitWords s osd p col b f r u := by
  rw [wordsDue, hborder, hlatch, hflash, Option.getD_some, Option.getD_some, Option.getD_some]

/-- Settles O34: the units due are those of the draw body's budget, in both kinds of sub-state. -/
theorem advancePaintsEachUnitDue : Obligations.AdvancePaintsEachUnitDue := by
  intro s n col b f v hs hn hborder hlatch hflash ho ht hp osd
  have ⟨⟨_, hf⟩, _⟩ := hs
  obtain ⟨budget, target, hdue, hdrawn⟩ : ∃ budget target, unitsDue s n = budget / 4 ∧
      RowDrawn s osd budget target (advance n.toNat s) := by
    obtain hwait | hdraw := inRow_of_not_blank hp
    · refine ⟨_, _, ?_, (if_pos hwait : osd = v) ▸ advance_cross_rowDrawn hs hn hwait (ht hwait) ho⟩
      rw [unitsDue, if_neg (by simp [isWait_not_isDraw hwait]), if_pos hwait]
    · have hosd : osd = s.osdActive := if_neg (by simp [isDraw_not_isWait hdraw])
      refine ⟨_, _, ?_, hosd ▸ advance_draw_rowDrawn hs hn hdraw⟩
      rw [unitsDue, if_pos hdraw]
  refine ⟨_, exec_advance hf n, hdrawn.fault, fun u hlo hhi => ?_⟩
  have hholds := hdrawn.painted u hlo (hdue ▸ hhi)
  rw [wordsDue_of_inputs hborder hlatch hflash] at hholds
  generalize unitWords s osd (drawOf s.phase) col b f s.line u = words at hholds ⊢
  cases words with
  | none | some => exact hholds

/-- ADVANCE 0 in a draw sub-state: CARRY holds no whole unit (R36, R222). -/
theorem advance_zero_draw {s : State} (hs : CanDraw s) (hp : isDraw s.phase = true) :
    advance 0 s = s := by
  have ⟨⟨hv, _⟩, _⟩ := hs
  have hcarry := canDraw_carry hs
  rw [advance_draw hv (by omega) hp, Nat.zero_add, Nat.div_eq_of_lt hcarry, emitUnits, drawStart,
    Nat.zero_add, Nat.mod_eq_of_lt hcarry]
  simp

/-- Settles O39: the cases of ADVANCE at n = 0. -/
theorem advanceZeroCatchesUp : Obligations.AdvanceZeroCatchesUp := by
  intro s hs
  have ⟨⟨hv, hf⟩, _⟩ := hs
  have hzero : exec (.advance 0) s = .next (advance 0 s) := exec_advance hf 0
  have hn : s.cyc.toNat + 0 < 2 ^ 32 := s.cyc.isLt
  rw [hzero]
  refine ⟨fun hp hc => ?_, fun hp ht => ?_, fun hp => ?_, fun hp hc => ?_, fun hp ht => ?_⟩
  · rw [advance_blank hv hn hp, if_pos (by exact hc)]
    simp
  · obtain ⟨t, hexec, hfault, hcyc, htarget, -, -, hshort, hfull⟩ :=
      crossingDrawsTheOvershoot s 0 hs hp hn ht
    exact ⟨t, hzero ▸ hexec, hfault, BitVec.eq_of_toNat_eq hcyc, htarget, hshort, hfull⟩
  · rw [advance_zero_draw hs hp]
  · rw [advance_blank hv hn hp, if_neg (by exact Nat.not_lt.mpr hc), countCycles_zero]
  · rw [advance_wait hv hn hp, if_pos (by exact ht), countCycles_zero]

end Sys2Proof

/-! PROOFS. The statements of spec/43_raster.md, second part: with the host on time the position
follows from CYC (R221). The invariant is `OnTime`, said of one state under CFG. -/

namespace Sys2Proof

open Sys2Proof.Machine Sys2Proof.Claims

/-! ### Rows, their phases and what follows them (R201, R207) -/

section Rows

variable {c : Cfg} {p : Phase} {l : Nat}

theorem drawPhaseOf_eq (hp : isDraw p = true) (hl : LineInRange c p l) : drawPhaseOf c l = p := by
  obtain ⟨-, htop, hmain, hbot⟩ := hl
  cases p with
  | topDraw => exact if_pos (htop (.inr rfl))
  | mainDraw =>
    have := hmain (.inr rfl)
    rw [drawPhaseOf, if_neg (by omega), if_pos (by omega)]
  | botDraw =>
    have := hbot (.inr rfl)
    rw [drawPhaseOf, if_neg (by omega), if_neg (by omega)]
  | blank | topWait | mainWait | botWait => cases hp

/-- The wait sub-state before a row is the one the row before it leads to. -/
theorem afterRow_eq_wait (hp : isWait p = true) (hl : LineInRange c p (l + 1)) :
    afterRow c l = (p, l + 1) := by
  obtain ⟨-, htop, hmain, hbot⟩ := hl
  cases p with
  | topWait => exact if_pos (htop (.inl rfl))
  | mainWait =>
    have := hmain (.inl rfl)
    rw [afterRow, if_neg (by omega), if_pos (by omega)]
  | botWait =>
    have := hbot (.inl rfl)
    rw [afterRow, if_neg (by omega), if_neg (by omega), if_pos (by omega)]
  | blank | topDraw | mainDraw | botDraw => cases hp

/-- The first row belongs to the top border (W2). -/
theorem topWait_of_first_row (hc : c.Admitted) (hp : isWait p = true) (hl : LineInRange c p 0) :
    p = .topWait := by
  obtain ⟨-, ⟨-, htb, -⟩, -⟩ := hc
  obtain ⟨-, -, hmain, hbot⟩ := hl
  cases p with
  | topWait => rfl
  | mainWait => have := hmain (.inl rfl); omega
  | botWait => have := hbot (.inl rfl); omega
  | blank | topDraw | mainDraw | botDraw => cases hp

theorem afterRow_last (hc : c.Admitted) (hl : l + 1 = c.vres) : afterRow c l = (.blank, 0) := by
  obtain ⟨-, ⟨hvres, -⟩, -⟩ := hc
  rw [afterRow, if_neg (by omega), if_neg (by omega), if_neg (by omega)]

/-- Every row but the last leads to the wait sub-state of the next. -/
theorem afterRow_inner (hl : l + 1 < c.vres) :
    isWait (afterRow c l).1 = true ∧ (afterRow c l).2 = l + 1 := by
  rw [afterRow]
  split
  · exact ⟨rfl, rfl⟩
  · split
    · exact ⟨rfl, rfl⟩
    · exact ⟨rfl, rfl⟩

theorem firstThresh_le_rowStart (c : Cfg) (r : Nat) : c.firstThresh ≤ c.rowStart r :=
  Nat.le_add_right ..

/-- The rows of a frame begin one after another (R8). -/
theorem rowStart_le (c : Cfg) {r r' : Nat} (h : r ≤ r') : c.rowStart r ≤ c.rowStart r' :=
  Nat.add_le_add_left (Nat.mul_le_mul_right _ h) _

end Rows

/-- Where a completed row leads: to the next row, or to BLANK after the last (R207). -/
theorem RowDrawn.next {s t : State} {osd : Bool} {budget target : Nat}
    (h : RowDrawn s osd budget target t) (hc : s.cfg.Admitted) (hl : s.line < s.cfg.vres)
    (hfull : s.cfg.units ≤ s.col + budget / 4) :
    t.col = 0 ∧ (s.line + 1 < s.cfg.vres ∧ isWait t.phase = true ∧ t.line = s.line + 1 ∨
      s.line + 1 = s.cfg.vres ∧ t.phase = .blank ∧ t.line = 0) := by
  obtain ⟨hnext, hcol⟩ := h.full hfull
  refine ⟨hcol, ?_⟩
  obtain hinner | hlast := Nat.lt_or_eq_of_le (Nat.succ_le_of_lt hl)
  · obtain ⟨hphase, hline⟩ := afterRow_inner hinner
    rw [← hnext] at hphase hline
    exact .inl ⟨hinner, hphase, hline⟩
  · rw [afterRow_last hc hlast] at hnext
    exact .inr ⟨hlast, congrArg Prod.fst hnext, congrArg Prod.snd hnext⟩

/-! ### On time: no boundary is left behind (R221, R226) -/

/-- The position agrees with CYC: a boundary waited for is still ahead, less than a line after the
end of the row before it; a row being drawn has had a unit for every four cycles since it began;
BLANK comes after the frame's last row. -/
inductive OnTime (s : State) : Prop
  | wait (hp : isWait s.phase = true) (hnext : s.cyc.toNat < s.cfg.rowStart s.line)
      (hpast : s.line = 0 ∨ s.cfg.rowStart s.line + 4 * s.cfg.units ≤ s.cyc.toNat + s.cfg.cpl)
  | draw (hp : isDraw s.phase = true)
      (hnow : s.cyc.toNat = s.cfg.rowStart s.line + 4 * s.col + s.carry.toNat)
  | blank (hp : s.phase = .blank)
      (hpast : s.cfg.rowStart s.cfg.vres + 4 * s.cfg.units ≤ s.cyc.toNat + s.cfg.cpl)

/-- A row drawn on time, completed or not, before the next one begins. -/
theorem RowDrawn.onTime {s t : State} {osd : Bool} {budget target : Nat}
    (h : RowDrawn s osd budget target t) (hs : CanDraw s) (hp : InRow s)
    (hcfg : t.cfg = s.cfg)
    (hcyc : t.cyc.toNat = s.cfg.rowStart s.line + 4 * s.col + budget)
    (hnext : t.cyc.toNat < s.cfg.rowStart (s.line + 1)) : OnTime t := by
  by_cases hend : s.col + budget / 4 < s.cfg.units
  · obtain ⟨hphase, hline, hcol⟩ := h.short hend
    refine .draw (hphase ▸ (canDraw_row hs hp).1) ?_
    rw [hcfg, hline, hcol, h.carry]
    omega
  · have hsucc := rowStart_succ s.cfg s.line
    obtain ⟨-, ⟨-, hwait, hline⟩ | ⟨hlast, hblank, -⟩⟩ :=
      h.next (canDraw_cfg hs).1 (canDraw_line_lt hs hp) (Nat.not_lt.mp hend)
    · refine .wait hwait ?_ (.inr ?_) <;> rw [hcfg, hline]
      · exact hnext
      · omega
    · refine .blank hblank ?_
      rw [hcfg, ← hlast]
      omega

/-- An ADVANCE that leaves room for a row in its line keeps the machine on time. -/
theorem advance_onTime {n : Nat} {s : State} (hs : CanDraw s) (hn : s.cyc.toNat + n < 2 ^ 32)
    (hroom : n + 4 * s.cfg.units ≤ s.cfg.cpl) (h : OnTime s) : OnTime (advance n s) := by
  have ⟨⟨hv, hf⟩, ⟨_, _, hosd, _⟩, _⟩ := hs
  have hcyc := advance_cyc hf (advance_fault_none hs hn)
  have hcount : (countCycles n s).cyc.toNat = s.cyc.toNat + n := cyc_add_toNat hn
  have hlater : s.cyc.toNat + s.cfg.cpl ≤ (countCycles n s).cyc.toNat + s.cfg.cpl := by omega
  have hsucc := rowStart_succ s.cfg s.line
  cases h with
  | wait hp hnext hpast =>
    have htarget := canDraw_target_wait hs hp
    by_cases ht : s.cyc.toNat + n < s.target.toNat
    · rw [advance_wait hv hn hp, if_pos ht]
      refine .wait hp (hcount ▸ htarget ▸ ht) (hpast.imp_right fun hpast => ?_)
      exact Nat.le_trans hpast hlater
    · obtain ⟨v, ho⟩ := Option.isSome_iff_exists.mp hosd
      have hcol := canDraw_col_wait hs hp
      refine (advance_cross_rowDrawn hs hn hp (Nat.not_lt.mp ht) ho).onTime hs (.inl hp)
        (advance_cfg n s) ?_ ?_ <;> omega
  | draw hp hnow =>
    obtain ⟨-, -, hcol⟩ := canDraw_row hs (.inr hp)
    have hcarry := canDraw_carry hs
    refine (advance_draw_rowDrawn hs hn hp).onTime hs (.inr hp) (advance_cfg n s) ?_ ?_ <;> omega
  | blank hp hpast =>
    obtain ⟨-, ⟨hvres, htb, -⟩, -⟩ := (canDraw_cfg hs).1
    have hstart : s.cfg.rowStart 1 ≤ s.cfg.rowStart s.cfg.vres := rowStart_le _ (by omega)
    rw [rowStart_succ] at hstart
    have hfirst := firstThresh_le_rowStart s.cfg 0
    rw [advance_blank hv hn hp, if_neg (by omega)]
    exact .blank hp (Nat.le_trans hpast hlater)

/-! ### The position on time (R221 part 3) -/

/-- The row that began last fixes the position; after the last row's start no other begins. -/
theorem onTimePosition_of_row {c : Cfg} {r cyc : Nat} (hc : c.Admitted) (hr : r < c.vres)
    (hlo : c.rowStart r ≤ cyc) (hhi : cyc < c.rowStart (r + 1) ∨ r + 1 = c.vres) :
    onTimePosition c cyc =
      if (cyc - c.rowStart r) / 4 < c.units then (drawPhaseOf c r, r, (cyc - c.rowStart r) / 4)
      else ((afterRow c r).1, (afterRow c r).2, 0) := by
  obtain ⟨-, -, -, ⟨hcpl, -⟩, -⟩ := hc
  have hge : r ≤ (cyc - c.firstThresh) / c.cpl := by
    rw [Nat.le_div_iff_mul_le hcpl]
    rw [Cfg.rowStart] at hlo
    omega
  have hrow : min ((cyc - c.firstThresh) / c.cpl) (c.vres - 1) = r := by
    obtain hhi | hlast := hhi
    · have hlt : (cyc - c.firstThresh) / c.cpl < r + 1 := by
        rw [Nat.div_lt_iff_lt_mul hcpl]
        rw [Cfg.rowStart] at hhi hlo
        omega
      omega
    · omega
  have hstarted : ¬ cyc < c.firstThresh := by
    have := firstThresh_le_rowStart c r
    omega
  rw [onTimePosition, if_neg hstarted, hrow]
  dsimp only
  by_cases hend : (cyc - c.rowStart r) / 4 < c.units
  · rw [Nat.min_eq_right (Nat.le_of_lt hend), if_pos hend]
  · rw [Nat.min_eq_left (Nat.not_lt.mp hend), if_neg (Nat.lt_irrefl _), if_neg hend]

theorem onTime_position {s : State} (hs : CanDraw s) (h : OnTime s) :
    (s.phase, s.line, s.col) = onTimePosition s.cfg s.cyc.toNat := by
  have ⟨hc, _⟩ := canDraw_cfg hs
  have ⟨hline, ⟨hcol, _⟩, _⟩ := canDraw_positioned hs
  have ⟨_, ⟨hvres, htb, _⟩, _, ⟨_, hunits⟩, _⟩ := hc
  cases h with
  | wait hp hnext hpast =>
    have hlt := canDraw_line_lt hs (.inl hp)
    rw [canDraw_col_wait hs hp]
    cases hl : s.line with
    | zero =>
      rw [hl] at hline hnext
      rw [onTimePosition, if_pos (by rwa [Cfg.rowStart, Nat.zero_mul] at hnext),
        topWait_of_first_row hc hp hline]
    | succ l =>
      rw [hl] at hline hnext hpast hlt
      have hsucc := rowStart_succ s.cfg l
      rw [onTimePosition_of_row hc (r := l) (by omega) (by omega) (.inl hnext),
        if_neg (by omega), afterRow_eq_wait hp hline]
  | draw hp hnow =>
    have hcarry := canDraw_carry hs
    obtain ⟨-, -, hcol⟩ := canDraw_row hs (.inr hp)
    have hsucc := rowStart_succ s.cfg s.line
    have hdrawn : (s.cyc.toNat - s.cfg.rowStart s.line) / 4 = s.col := by omega
    rw [onTimePosition_of_row hc (canDraw_line_lt hs (.inr hp)) (by omega) (.inl (by omega)),
      hdrawn, if_pos hcol, drawPhaseOf_eq hp hline]
  | blank hp hpast =>
    obtain ⟨hline0, -⟩ := hline
    obtain ⟨l, hl⟩ := Nat.exists_eq_add_of_le' (show 1 ≤ s.cfg.vres by omega)
    have hsucc := rowStart_succ s.cfg l
    rw [hl] at hpast
    rw [onTimePosition_of_row hc (r := l) (by omega) (by omega) (.inr hl.symm), if_neg (by omega),
      afterRow_last hc hl.symm, hp, hline0 hp, hcol (by rw [hp]; rfl)]

/-- A list of ADVANCE commands that leave room for a row in their lines keeps the machine on
time. -/
theorem runCommands_onTime {c : Cfg} (ns : List Count)
    (hroom : ∀ n ∈ ns, n.toNat + 4 * c.units ≤ c.cpl) {s : State} (hcfg : s.cfg = c)
    (hs : CanDraw s) (h : OnTime s) (hn : s.cyc.toNat + (ns.map BitVec.toNat).sum < 2 ^ 32) :
    ∃ t, runCommands (ns.map .advance) s = .next t ∧ t.cfg = c ∧ CanDraw t ∧ OnTime t := by
  induction ns generalizing s with
  | nil => exact ⟨s, rfl, hcfg, hs, h⟩
  | cons n ns ih =>
    have ⟨⟨_, hf⟩, _⟩ := hs
    subst hcfg
    rw [List.map_cons, List.sum_cons] at hn
    have hn' : s.cyc.toNat + n.toNat < 2 ^ 32 := by omega
    have hcyc := advance_cyc hf (advance_fault_none hs hn')
    rw [List.map_cons, runCommands_cons (exec_advance hf n)]
    refine ih (fun m hm => hroom m (List.mem_cons_of_mem _ hm)) (advance_cfg ..)
      (advance_canDraw hs hn') ?_ (by omega)
    exact advance_onTime hs hn' (hroom n List.mem_cons_self) h

/-- Settles O38: the list keeps the machine on time, and the position follows. -/
theorem onTimePositionIsAFunctionOfCyc : Obligations.OnTimePositionIsAFunctionOfCyc := by
  intro ns s hs hp hline hfirst hroom hn
  have hontime : OnTime s := by
    refine .wait (by rw [hp]; rfl) ?_ (.inl hline)
    exact Nat.lt_of_lt_of_le hfirst (firstThresh_le_rowStart ..)
  obtain ⟨t, hrun, hcfg, ht, hontime'⟩ := runCommands_onTime ns hroom rfl hs hontime hn
  have ⟨⟨_, hf⟩, _⟩ := ht
  exact ⟨t, hrun, hf, cyclesAreConserved ns s t hrun hf, hcfg ▸ onTime_position ht hontime'⟩

end Sys2Proof

/-! PROOFS. The statements of spec/43_raster.md, third part: FLUSH (R217 to R219). FLUSH is taken as
its first pass and a FLUSH after it, so that an induction over the passes needs no fuel
(`flush_induct`); what is left of the frame is then painted pass by pass (`FrameFinished`). -/

namespace Sys2Proof

open Sys2Proof.Machine Sys2Proof.Claims

/-! ### FLUSH as one pass after another (R217) -/

section Passes

variable {s : State}

@[simp] theorem advance_vstat (n : Nat) (s : State) : (advance n s).vstat = s.vstat := by
  obtain ⟨p, l, u, ta, ca, cy, o, fb, bc, f, hframe⟩ := advance_frame n s
  rw [hframe]

theorem flush_ready (hv : s.vstat = .ready) :
    flush s = flushPasses (s.cfg.cpf - s.cyc.toNat) s := by
  rw [flush, if_neg (not_not_intro hv)]

theorem flushPasses_past {k : Nat} (h : s.cfg.cpf ≤ s.cyc.toNat) : flushPasses k s = s := by
  cases k with
  | zero => rfl
  | succ k => exact if_neg (Nat.not_lt.mpr h)

theorem flushPasses_before {k : Nat} (h : s.cyc.toNat < s.cfg.cpf) :
    flushPasses (k + 1) s = andThen (advance s.cfg.cpl s) (flushPasses k) := if_pos h

/-- A pass more than CPF − CYC changes nothing: each pass moves CYC on by at least 1 (W4). -/
theorem flushPasses_succ {k : Nat} (hf : s.fault = none) (hcpl : 1 ≤ s.cfg.cpl)
    (hk : s.cfg.cpf - s.cyc.toNat ≤ k) : flushPasses (k + 1) s = flushPasses k s := by
  induction k generalizing s with
  | zero => rw [flushPasses_past (by omega), flushPasses]
  | succ k ih =>
    by_cases h : s.cyc.toNat < s.cfg.cpf
    · rw [flushPasses_before h, flushPasses_before h]
      cases hfault : (advance s.cfg.cpl s).fault with
      | none =>
        have hcyc := advance_cyc hf hfault
        have hcfg := advance_cfg s.cfg.cpl s
        rw [andThen_running hfault, andThen_running hfault]
        refine ih hfault (by rw [hcfg]; exact hcpl) ?_
        rw [hcfg]
        omega
      | some i => rw [andThen_stopped hfault, andThen_stopped hfault]
    · rw [flushPasses_past (Nat.not_lt.mp h), flushPasses_past (Nat.not_lt.mp h)]

theorem flushPasses_enough {k : Nat} (hv : s.vstat = .ready) (hf : s.fault = none)
    (hcpl : 1 ≤ s.cfg.cpl) (hk : s.cfg.cpf - s.cyc.toNat ≤ k) : flushPasses k s = flush s := by
  rw [flush_ready hv]
  induction k, hk using Nat.le_induction with
  | base => rfl
  | succ k hk ih => rw [flushPasses_succ hf hcpl hk, ih]

/-- At or beyond CPF FLUSH has nothing to do (R218). -/
theorem flush_past (hv : s.vstat = .ready) (h : s.cfg.cpf ≤ s.cyc.toNat) : flush s = s := by
  rw [flush_ready hv, flushPasses_past h]

/-- Below CPF FLUSH begins with an ADVANCE of CPL. -/
theorem flush_before (hv : s.vstat = .ready) (h : s.cyc.toNat < s.cfg.cpf) :
    flush s =
      andThen (advance s.cfg.cpl s) (flushPasses (s.cfg.cpf - s.cyc.toNat - 1)) := by
  rw [flush_ready hv, ← flushPasses_before h, Nat.sub_add_cancel (by omega)]

theorem flush_stop (hv : s.vstat = .ready) (h : s.cyc.toNat < s.cfg.cpf) {k : FaultKind}
    (hfault : (advance s.cfg.cpl s).fault = some k) : flush s = advance s.cfg.cpl s := by
  rw [flush_before hv h, andThen_stopped hfault]

theorem flush_pass (hr : s.Running) (hcpl : 1 ≤ s.cfg.cpl) (h : s.cyc.toNat < s.cfg.cpf)
    (hfault : (advance s.cfg.cpl s).fault = none) :
    flush s = flush (advance s.cfg.cpl s) := by
  obtain ⟨hv, hf⟩ := hr
  have hcyc := advance_cyc hf hfault
  have hcfg := advance_cfg s.cfg.cpl s
  rw [flush_before hv h, andThen_running hfault]
  refine flushPasses_enough ((advance_vstat ..).trans hv) hfault (by rw [hcfg]; exact hcpl) ?_
  rw [hcfg]
  omega

/-- Induction over the passes of FLUSH: it ends at CPF, at a fault, or goes on after a pass. -/
theorem flush_induct {P : State → Prop}
    (past : ∀ s, s.Running → s.cfg.cpf ≤ s.cyc.toNat → flush s = s → P s)
    (stop : ∀ s, s.Running → s.cyc.toNat < s.cfg.cpf → (advance s.cfg.cpl s).fault ≠ none →
      flush s = advance s.cfg.cpl s → P s)
    (pass : ∀ s, s.Running → s.cyc.toNat < s.cfg.cpf → (advance s.cfg.cpl s).fault = none →
      flush s = flush (advance s.cfg.cpl s) → P (advance s.cfg.cpl s) → P s)
    (hr : s.Running) (hcpl : 1 ≤ s.cfg.cpl) : P s := by
  induction hleft : s.cfg.cpf - s.cyc.toNat using Nat.strong_induction_on generalizing s with
  | _ left ih =>
    have ⟨hv, hf⟩ := hr
    by_cases h : s.cyc.toNat < s.cfg.cpf
    · cases hfault : (advance s.cfg.cpl s).fault with
      | none =>
        have hcyc := advance_cyc hf hfault
        have hcfg := advance_cfg s.cfg.cpl s
        refine pass s hr h hfault (flush_pass hr hcpl h hfault)
          (ih _ ?_ ⟨(advance_vstat ..).trans hv, hfault⟩ (by rw [hcfg]; exact hcpl) rfl)
        rw [hcfg]
        omega
      | some k => exact stop s hr h (by rw [hfault]; exact nofun) (flush_stop hv h hfault)
    · exact past s hr (Nat.not_lt.mp h) (flush_past hv (Nat.not_lt.mp h))

theorem exec_flush (hf : s.fault = none) : exec .flush s = .next (flush s) := exec_running hf _

end Passes

/-! ### The statements about FLUSH as a loop -/

/-- Settles O40: the first pass of the loop is the ADVANCE, and a fault of it ends both. -/
theorem flushRepeatsAdvance : Obligations.FlushRepeatsAdvance := by
  intro s t ⟨hv, hf⟩ ha hbefore hoperand h
  have hc : s.cfg.Admitted := Configs.admitted_select ha _
  have ⟨_, _, _, ⟨hcpl, _⟩, _⟩ := hc
  rw [exec_advance hf, BitVec.toNat_ofNat, Nat.mod_eq_of_lt hoperand] at h
  cases h
  rw [exec_flush hf]
  cases hfault : (advance s.cfg.cpl s).fault with
  | none => rw [exec_flush hfault, flush_pass ⟨hv, hf⟩ hcpl hbefore hfault]
  | some k => rw [exec_stopped hfault, flush_stop hv hbefore hfault]

/-- A FLUSH that raises no fault ends at or beyond CPF (R217). -/
theorem flush_cyc {s : State} (hr : s.Running) (hcpl : 1 ≤ s.cfg.cpl)
    (hfault : (flush s).fault = none) :
    (flush s).vstat = .ready ∧ (flush s).cfg.cpf ≤ (flush s).cyc.toNat := by
  refine flush_induct (P := fun s => (flush s).fault = none →
      (flush s).vstat = .ready ∧ (flush s).cfg.cpf ≤ (flush s).cyc.toNat)
    (fun s hr hpast hflush _ => ?_) (fun s _ _ hstop hflush h => ?_)
    (fun s _ _ _ hflush ih => ?_) hr hcpl hfault
  · rw [hflush]
    exact ⟨hr.1, hpast⟩
  · exact absurd (hflush ▸ h) hstop
  · rwa [hflush]

/-- Settles O41: a FLUSH that raised no fault has reached CPF. -/
theorem flushIsIdempotent : Obligations.FlushIsIdempotent := by
  refine ⟨fun s ⟨hv, hf⟩ hpast => by rw [exec_flush hf, flush_past hv hpast], fun s t ha h => ?_⟩
  obtain ⟨-, rfl⟩ | ⟨hf, rfl⟩ := exec_next_cases h
  · exact h
  cases hfault : (flush s).fault with
  | some k => exact exec_stopped hfault _
  | none =>
    have hready : s.vstat = .ready := by
      by_contra hv
      rw [flush, if_pos hv] at hfault
      cases hfault
    obtain ⟨-, -, -, ⟨hcpl, -⟩, -⟩ : s.cfg.Admitted := Configs.admitted_select ha _
    obtain ⟨hv, hpast⟩ := flush_cyc ⟨hready, hf⟩ hcpl hfault
    exact (exec_flush hfault).trans (congrArg _ (flush_past hv hpast))

/-- With no pass overflowing CYC a FLUSH completes, and its last pass begins below CPF (R217,
R225). -/
theorem flush_reaches {s : State} (hs : CanDraw s) (hfits : s.cfg.cpf + s.cfg.cpl ≤ 2 ^ 32) :
    (flush s).fault = none ∧ s.cfg.cpf ≤ (flush s).cyc.toNat ∧
      (s.cyc.toNat < s.cfg.cpf + s.cfg.cpl → (flush s).cyc.toNat < s.cfg.cpf + s.cfg.cpl) := by
  have ⟨hr, _⟩ := hs
  have ⟨_, _, _, ⟨hcpl, _⟩, _⟩ := (canDraw_cfg hs).1
  refine flush_induct (P := fun s => CanDraw s → s.cfg.cpf + s.cfg.cpl ≤ 2 ^ 32 →
      (flush s).fault = none ∧ s.cfg.cpf ≤ (flush s).cyc.toNat ∧
        (s.cyc.toNat < s.cfg.cpf + s.cfg.cpl → (flush s).cyc.toNat < s.cfg.cpf + s.cfg.cpl))
    (fun s hr hpast hflush _ _ => ?_) (fun s _ hbefore hstop _ hs hfits => ?_)
    (fun s hr hbefore hfault hflush ih hs hfits => ?_) hr hcpl hs hfits
  · rw [hflush]
    exact ⟨hr.2, hpast, id⟩
  · exact absurd (advance_fault_none hs (by omega)) hstop
  · rw [advance_cyc hr.2 hfault, advance_cfg] at ih
    rw [hflush]
    obtain ⟨hflushed, hreached, hwithin⟩ := ih (advance_canDraw hs (by omega)) hfits
    exact ⟨hflushed, hreached, fun _ => hwithin (by omega)⟩

/-- Settles O42: no pass faults, each adds CPL, and the last one begins below CPF. -/
theorem flushReachesTheFrameEnd : Obligations.FlushReachesTheFrameEnd := by
  intro s hs hfits
  have ⟨⟨_, hf⟩, _⟩ := hs
  obtain ⟨hflushed, hreached, hwithin⟩ := flush_reaches hs hfits
  exact ⟨_, exec_flush hf, hflushed, hreached, fun h => hwithin (by omega)⟩

end Sys2Proof

/-! PROOFS. The statements of spec/43_raster.md, fourth part: what FLUSH paints (R219). A state
under the conditions of R219 is `FlushReady`; a pass leads to another such state, and what was left
of the frame is painted by the pass or left to the FLUSH after it. -/

namespace Sys2Proof

open Sys2Proof.Machine Sys2Proof.Claims

/-! ### What is left of the frame -/

/-- The conditions (a) to (c) of R219, each with its phase, and BLANK after the last row of the
frame, where FLUSH only counts on. -/
inductive FlushReady (s : State) : Prop
  | wait (hp : isWait s.phase = true) (h : s.cyc.toNat < s.target.toNat + 4 * s.cfg.units)
  | draw (hp : isDraw s.phase = true)
      (h : s.cyc.toNat + s.cfg.cpl < s.target.toNat + 4 * s.cfg.units)
  | before (hp : s.phase = .blank) (h : s.cyc.toNat + s.cfg.cpl < s.cfg.firstThresh)
  | finished (hp : s.phase = .blank) (h : s.cfg.firstThresh ≤ s.cyc.toNat + s.cfg.cpl)
      (ht : s.target.toNat = s.cfg.rowStart s.cfg.vres)

/-- The first row FLUSH has units left in: VRES, beyond all rows, once the frame is finished. -/
def rowLeft (s : State) : Nat :=
  if s.phase = .blank ∧ s.cfg.firstThresh ≤ s.cyc.toNat + s.cfg.cpl then s.cfg.vres else s.line

/-- Unit (r, u) is left to FLUSH. -/
def UnitLeft (s : State) (r u : Nat) : Prop :=
  rowLeft s ≤ r ∧ r < s.cfg.vres ∧ u < s.cfg.units ∧ (r = rowLeft s → s.col ≤ u)

/-- Word j of row r belongs to no unit left to FLUSH. -/
def WordPast (s : State) (r j : Nat) : Prop :=
  r < rowLeft s ∨ s.cfg.vres ≤ r ∨ (r = rowLeft s ∧ j < s.cfg.rwo + 2 * s.col) ∨
    j < s.cfg.rwo ∨ s.cfg.rwo + 2 * s.cfg.units ≤ j

/-- The draw variant of row r: the row in progress keeps its own, OSD_VISIBLE being `v` at every
later crossing (R212). -/
def rowVariant (v : Bool) (s : State) (r : Nat) : Bool :=
  if isDraw s.phase = true ∧ r = s.line then s.osdActive else v

/-- The two words R208 to R211 give unit (r, u) in a FLUSH from `s`. -/
def wordsLeft (v : Bool) (s : State) (r u : Nat) : Option (Word × Word) :=
  wordsDue s (rowVariant v s r) (drawPhaseOf s.cfg r) r u

/-- A row in progress lies at or after FIRST_THRESH, so that no second frame starts below CPF. -/
def OneFrame (s : State) : Prop := isDraw s.phase = true → s.cfg.firstThresh ≤ s.cyc.toNat

/-- `t` has the frame of `s` finished: BLANK after the last row, every unit that was left
painted. -/
structure FrameFinished (v : Bool) (s t : State) : Prop where
  phase : t.phase = .blank
  line : t.line = 0
  target : t.target.toNat = s.cfg.rowStart s.cfg.vres
  painted : ∀ r u, UnitLeft s r u → (wordsLeft v s r u).isSome = true ∨ OneFrame s →
    UnitHolds s.cfg s.fb t.fb r u (wordsLeft v s r u)
  kept : OneFrame s → ∀ r j, WordPast s r j → FrameBuffer.read t.fb r j = FrameBuffer.read s.fb r j

/-! ### A pass that draws nothing -/

section Quiet

variable {s t : State} {v : Bool}

theorem oneFrame_of_not_draw (h : isDraw s.phase = false) : OneFrame s :=
  fun hdraw => absurd (hdraw.symm.trans h) (by decide)

theorem rowVariant_of_not_draw (h : isDraw s.phase = false) (r : Nat) : rowVariant v s r = v :=
  if_neg (by simp [h])

/-- The words of a unit depend on nothing an ADVANCE writes (R208 to R211). -/
theorem advance_wordsDue (n : Nat) (s : State) (osd : Bool) (p : Phase) (r u : Nat) :
    wordsDue (advance n s) osd p r u = wordsDue s osd p r u := by
  obtain ⟨p, l, u, ta, ca, cy, o, fb, bc, f, hframe⟩ := advance_frame n s
  rw [hframe]
  rfl

theorem advance_wordsLeft {n r : Nat} (h : rowVariant v (advance n s) r = rowVariant v s r)
    (u : Nat) : wordsLeft v (advance n s) r u = wordsLeft v s r u := by
  rw [wordsLeft, h, advance_cfg, advance_wordsDue]
  rfl

/-- Outside a draw sub-state a pass that draws nothing leaves all that was left. -/
theorem FrameFinished.of_quiet {n : Nat} (hs : isDraw s.phase = false)
    (hs' : isDraw (advance n s).phase = false) (hfb : (advance n s).fb = s.fb)
    (hrow : rowLeft (advance n s) = rowLeft s) (hcol : (advance n s).col = s.col)
    (h : FrameFinished v (advance n s) t) : FrameFinished v s t := by
  obtain ⟨hphase, hline, htarget, hpainted, hkept⟩ := h
  have hcfg := advance_cfg n s
  have hvariant (r : Nat) : rowVariant v (advance n s) r = rowVariant v s r := by
    rw [rowVariant_of_not_draw hs, rowVariant_of_not_draw hs']
  refine ⟨hphase, hline, hcfg ▸ htarget, fun r u hleft _ => ?_, fun _ r j hpast => ?_⟩
  · have hholds := hpainted r u (by rwa [UnitLeft, hrow, hcfg, hcol])
      (.inr (oneFrame_of_not_draw hs'))
    rwa [hcfg, hfb, advance_wordsLeft (hvariant r)] at hholds
  · have hread := hkept (oneFrame_of_not_draw hs') r j (by rwa [WordPast, hrow, hcfg, hcol])
    rwa [hfb] at hread

end Quiet

/-! ### A pass that draws a row, or the rest of it -/

section Drawn

variable {s t : State} {v : Bool} {n budget target : Nat}

/-- The units painted of the row in progress are units that were left, under their own words. -/
theorem wordsLeft_of_row (hs : CanDraw s) (hp : InRow s) (u : Nat) :
    wordsLeft v s s.line u =
      wordsDue s (rowVariant v s s.line) (drawOf s.phase) s.line u := by
  obtain ⟨hdraw, hline, -⟩ := canDraw_row hs hp
  rw [wordsLeft, drawPhaseOf_eq hdraw hline]

theorem rowLeft_of_row (hp : InRow s) : rowLeft s = s.line := by
  refine if_neg fun ⟨hblank, _⟩ => ?_
  rw [InRow, hblank] at hp
  exact absurd hp (by decide)

/-- The frame goes on after the drawn units: in the same row, or at the start of the next. -/
theorem FrameFinished.of_drawn (hs : CanDraw s) (hp : InRow s)
    (hdrawn : RowDrawn s (rowVariant v s s.line) budget target (advance n s))
    (hframe : OneFrame (advance n s))
    (hvariant : ∀ r, rowLeft (advance n s) ≤ r → rowVariant v (advance n s) r = rowVariant v s r)
    (hnext : rowLeft (advance n s) = s.line ∧ (advance n s).col = s.col + budget / 4 ∧
        s.col + budget / 4 < s.cfg.units ∨
      rowLeft (advance n s) = s.line + 1 ∧ (advance n s).col = 0 ∧
        s.cfg.units ≤ s.col + budget / 4)
    (h : FrameFinished v (advance n s) t) : FrameFinished v s t := by
  obtain ⟨hphase, hline, htarget, hpainted, hkept⟩ := h
  have hcfg := advance_cfg n s
  have hrow := rowLeft_of_row hp
  simp only [WordPast, hcfg] at hkept
  refine ⟨hphase, hline, hcfg ▸ htarget, fun r u ⟨hlo, hr, hu, hcol⟩ _ => ?_,
    fun _ r j hpast => ?_⟩
  · by_cases hnow : r = s.line ∧ u < min (s.col + budget / 4) s.cfg.units
    · obtain ⟨rfl, hu'⟩ := hnow
      have hholds := hdrawn.painted u (hcol hrow.symm) hu'
      rw [← wordsLeft_of_row hs hp] at hholds
      refine unitHolds_of_reads (fun _ _ _ => rfl) (fun j _ hj => ?_) hholds
      exact hkept hframe s.line j (by omega)
    · have hholds := hpainted r u ⟨by omega, hcfg ▸ hr, hcfg ▸ hu, by omega⟩ (.inr hframe)
      rw [hcfg, advance_wordsLeft (hvariant r (by omega))] at hholds
      refine unitHolds_of_reads (fun j hj hj' => ?_) (fun _ _ _ => rfl) hholds
      exact (hdrawn.kept r j (by omega)).symm
  · have hinside := canDraw_line_lt hs hp
    rw [WordPast, hrow] at hpast
    exact (hkept hframe r j (by omega)).trans (hdrawn.kept r j (by omega))

/-- Under another draw variant a unit has the same words or is skipped (R211). -/
theorem wordsDue_variant {osd : Bool} {p : Phase} {r u : Nat} {w : Word × Word}
    (h : wordsDue s osd p r u = some w) (osd' : Bool) :
    wordsDue s osd' p r u = none ∨ wordsDue s osd' p r u = some w := by
  rw [wordsDue, unitWords] at h ⊢
  split at h
  · cases h
  · by_cases hskip : Skipped s.cfg osd' p r u
    · exact .inl (if_pos hskip)
    · rw [if_neg hskip]
      exact .inr h

/-- Where the last row ends so early that a second frame begins, that frame paints the same words
again, or skips them. -/
theorem FrameFinished.of_secondFrame (hs : CanDraw s) (hp : isDraw s.phase = true)
    (hdrawn : RowDrawn s (rowVariant v s s.line) budget target (advance n s))
    (hfull : s.cfg.units ≤ s.col + budget / 4) (hlast : s.line + 1 = s.cfg.vres)
    (hblank : isDraw (advance n s).phase = false) (hrow' : rowLeft (advance n s) = 0)
    (hcol' : (advance n s).col = 0) (hframe : ¬ OneFrame s)
    (h : FrameFinished v (advance n s) t) : FrameFinished v s t := by
  obtain ⟨hphase, hline, htarget, hpainted, -⟩ := h
  have hcfg := advance_cfg n s
  have hrow := rowLeft_of_row (.inr hp)
  refine ⟨hphase, hline, hcfg ▸ htarget, fun r u ⟨hlo, hr, hu, hcol⟩ hsome => ?_,
    fun hone => absurd hone hframe⟩
  obtain rfl : r = s.line := by omega
  obtain ⟨w, hw⟩ := Option.isSome_iff_exists.mp (hsome.resolve_right hframe)
  have hfirst := hdrawn.painted u (hcol hrow.symm) (by omega)
  have hsecond := hpainted s.line u ⟨by omega, hcfg ▸ hr, hcfg ▸ hu, by omega⟩
    (.inr (oneFrame_of_not_draw hblank))
  rw [← wordsLeft_of_row hs (.inr hp), hw] at hfirst
  rw [hcfg, wordsLeft, advance_wordsDue, hcfg] at hsecond
  rw [hw]
  obtain hskip | hsame := wordsDue_variant hw (rowVariant v (advance n s) s.line)
  · rw [hskip] at hsecond
    exact ⟨hsecond.1.trans hfirst.1, hsecond.2.trans hfirst.2⟩
  · rw [hsame] at hsecond
    exact hsecond

end Drawn

/-! ### FLUSH keeps its conditions, pass by pass (R219) -/

section Ready

variable {s t : State} {v : Bool}

theorem rowLeft_finished (hp : s.phase = .blank)
    (h : s.cfg.firstThresh ≤ s.cyc.toNat + s.cfg.cpl) : rowLeft s = s.cfg.vres := if_pos ⟨hp, h⟩

theorem rowLeft_before (h : s.cyc.toNat + s.cfg.cpl < s.cfg.firstThresh) : rowLeft s = s.line :=
  if_neg fun hblank => Nat.not_lt.mpr hblank.2 h

theorem rowVariant_of_later {r : Nat} (h : s.line < r) : rowVariant v s r = v :=
  if_neg fun hnow => Nat.ne_of_gt h hnow.2

theorem isDraw_blank (hp : s.phase = .blank) : isDraw s.phase = false := by rw [hp]; rfl

/-- A pass that completes a row leads to a state from which FLUSH finishes the frame as well. -/
theorem RowDrawn.flushFinishes {budget : Nat} (hs : CanDraw s) (hp : InRow s)
    (hdrawn : RowDrawn s (rowVariant v s s.line) budget (s.cfg.rowStart (s.line + 1))
      (advance s.cfg.cpl s))
    (hcyc : (advance s.cfg.cpl s).cyc.toNat = s.cyc.toNat + s.cfg.cpl)
    (hfull : s.cfg.units ≤ s.col + budget / 4)
    (hnext : s.cyc.toNat + s.cfg.cpl < s.cfg.rowStart (s.line + 1) + 4 * s.cfg.units)
    (hstarted : isWait s.phase = true → s.cfg.firstThresh ≤ s.cyc.toNat + s.cfg.cpl) :
    FlushReady (advance s.cfg.cpl s) ∧
      (FrameFinished v (advance s.cfg.cpl s) t → FrameFinished v s t) := by
  have hcfg := advance_cfg s.cfg.cpl s
  have htarget := hdrawn.target
  have goesOn (hdraw : isDraw (advance s.cfg.cpl s).phase = false)
      (hcol : (advance s.cfg.cpl s).col = 0)
      (hrow : rowLeft (advance s.cfg.cpl s) = s.line + 1) :
      FrameFinished v (advance s.cfg.cpl s) t → FrameFinished v s t := by
    refine .of_drawn hs hp hdrawn (oneFrame_of_not_draw hdraw) (fun r hr => ?_)
      (.inr ⟨hrow, hcol, hfull⟩)
    rw [rowVariant_of_not_draw hdraw, rowVariant_of_later (by omega)]
  obtain ⟨hcol, ⟨-, hwait, hline⟩ | ⟨hlast, hblank, hline⟩⟩ :=
    hdrawn.next (canDraw_cfg hs).1 (canDraw_line_lt hs hp) hfull
  · refine ⟨.wait hwait ?_, goesOn (isWait_not_isDraw hwait) hcol
      ((rowLeft_of_row (.inl hwait)).trans hline)⟩
    rwa [hcyc, htarget, hcfg]
  · have hnodraw := isDraw_blank hblank
    by_cases hdone : s.cfg.firstThresh ≤ s.cyc.toNat + s.cfg.cpl + s.cfg.cpl
    · have hdone' : (advance s.cfg.cpl s).cfg.firstThresh ≤
          (advance s.cfg.cpl s).cyc.toNat + (advance s.cfg.cpl s).cfg.cpl := by
        rwa [hcyc, hcfg]
      refine ⟨.finished hblank hdone' ?_, goesOn hnodraw hcol ?_⟩
      · rw [htarget, hcfg, hlast]
      · rw [rowLeft_finished hblank hdone', hcfg, hlast]
    · have hbefore : (advance s.cfg.cpl s).cyc.toNat + (advance s.cfg.cpl s).cfg.cpl <
          (advance s.cfg.cpl s).cfg.firstThresh := by
        rw [hcyc, hcfg]
        omega
      have hdraw : isDraw s.phase = true :=
        hp.resolve_left fun hwait => by have := hstarted hwait; omega
      refine ⟨.before hblank hbefore, .of_secondFrame hs hdraw hdrawn hfull hlast hnodraw
        ((rowLeft_before hbefore).trans hline) hcol fun hone => ?_⟩
      have := hone hdraw
      omega

/-- A crossing of FLUSH paints the row it begins under OSD_VISIBLE, as far as the overshoot
reaches. -/
theorem flushReady_cross (hs : CanDraw s) (ho : s.osdVisible = some v)
    (hn : s.cyc.toNat + s.cfg.cpl < 2 ^ 32) (hp : isWait s.phase = true)
    (hlate : s.cyc.toNat < s.target.toNat + 4 * s.cfg.units)
    (ht : s.target.toNat ≤ s.cyc.toNat + s.cfg.cpl) :
    FlushReady (advance s.cfg.cpl s) ∧
      (FrameFinished v (advance s.cfg.cpl s) t → FrameFinished v s t) := by
  have ⟨⟨_, hf⟩, _⟩ := hs
  have hcyc := advance_cyc hf (advance_fault_none hs hn)
  have hcfg := advance_cfg s.cfg.cpl s
  have hnodraw := isWait_not_isDraw hp
  have htarget := canDraw_target_wait hs hp
  have hfirst := firstThresh_le_rowStart s.cfg s.line
  have hvariant := rowVariant_of_not_draw (v := v) hnodraw s.line
  have hdrawn := advance_cross_rowDrawn hs hn hp ht ho
  rw [← hvariant] at hdrawn
  by_cases hend : s.col + (s.cyc.toNat + s.cfg.cpl - s.target.toNat) / 4 < s.cfg.units
  · obtain ⟨hphase, hline, hcol⟩ := hdrawn.short hend
    have hdraw : isDraw (advance s.cfg.cpl s).phase = true :=
      hphase ▸ (canDraw_row hs (.inl hp)).1
    refine ⟨.draw hdraw ?_, .of_drawn hs (.inl hp) hdrawn (fun _ => ?_) (fun r _ => ?_)
      (.inl ⟨(rowLeft_of_row (.inr hdraw)).trans hline, hcol, hend⟩)⟩
    · rw [hcyc, hcfg, hdrawn.target]
      omega
    · rw [hcyc, hcfg]
      omega
    · rw [rowVariant_of_not_draw hnodraw, rowVariant, hdrawn.osdActive, hvariant, ite_self]
  · rw [htarget, ← rowStart_succ] at hdrawn
    have hsucc := rowStart_succ s.cfg s.line
    exact hdrawn.flushFinishes hs (.inl hp) hcyc (htarget ▸ Nat.not_lt.mp hend) (by omega)
      fun _ => by omega

/-- A pass under the conditions of R219 ends under them, and finishing the frame from there
finishes it. -/
theorem flushReady_advance (hs : CanDraw s) (ho : s.osdVisible = some v)
    (hn : s.cyc.toNat + s.cfg.cpl < 2 ^ 32) (h : FlushReady s) :
    FlushReady (advance s.cfg.cpl s) ∧
      (FrameFinished v (advance s.cfg.cpl s) t → FrameFinished v s t) := by
  have ⟨⟨hv, hf⟩, _⟩ := hs
  have hcyc := advance_cyc hf (advance_fault_none hs hn)
  obtain ⟨-, -, -, ⟨-, hunits⟩, -⟩ := (canDraw_cfg hs).1
  have ⟨⟨hline, _⟩, ⟨hcol, _⟩, _⟩ := canDraw_positioned hs
  cases h with
  | wait hp h =>
    by_cases ht : s.cyc.toNat + s.cfg.cpl < s.target.toNat
    · have hnodraw := isWait_not_isDraw hp
      have hcount : advance s.cfg.cpl s = countCycles s.cfg.cpl s := by
        rw [advance_wait hv hn hp, if_pos ht]
      have hquiet := FrameFinished.of_quiet (t := t) (v := v) (n := s.cfg.cpl) hnodraw
      rw [hcount] at hcyc hquiet ⊢
      refine ⟨.wait hp ?_, hquiet hnodraw rfl ?_ rfl⟩
      · exact Nat.lt_of_lt_of_le (hcyc ▸ ht) (Nat.le_add_right ..)
      · rw [rowLeft_of_row (.inl hp), rowLeft_of_row (.inl (by exact hp))]
        rfl
    · exact flushReady_cross hs ho hn hp h (Nat.not_lt.mp ht)
  | draw hp h =>
    obtain ⟨-, -, hin⟩ := canDraw_row hs (.inr hp)
    have htarget := canDraw_target_draw hs hp
    have hdrawn := advance_draw_rowDrawn hs hn hp
    have hvariant : rowVariant v s s.line = s.osdActive := if_pos ⟨hp, rfl⟩
    rw [htarget, ← hvariant] at hdrawn
    refine hdrawn.flushFinishes hs (.inr hp) hcyc (by omega) (htarget ▸ h) fun hwait => ?_
    exact absurd (hp.symm.trans (isWait_not_isDraw hwait)) (by decide)
  | before hp h =>
    have hnodraw := isDraw_blank hp
    have htarget := canDraw_target_wait (advance_canDraw hs hn)
    have hquiet := FrameFinished.of_quiet (t := t) (v := v) (n := s.cfg.cpl) hnodraw
    rw [rowLeft_before h, hline hp, hcol hnodraw] at hquiet
    rw [advance_blank hv hn hp, if_pos h] at hcyc hquiet htarget ⊢
    refine ⟨.wait rfl ?_, hquiet rfl rfl (rowLeft_of_row (.inl rfl)) rfl⟩
    rw [hcyc, htarget rfl]
    exact Nat.lt_of_lt_of_le h (Nat.le_add_right_of_le (firstThresh_le_rowStart ..))
  | finished hp h ht =>
    have hnodraw := isDraw_blank hp
    have hcount : advance s.cfg.cpl s = countCycles s.cfg.cpl s := by
      rw [advance_blank hv hn hp, if_neg (Nat.not_lt.mpr h)]
    have hquiet := FrameFinished.of_quiet (t := t) (v := v) (n := s.cfg.cpl) hnodraw
    rw [hcount] at hcyc hquiet ⊢
    have h' : s.cfg.firstThresh ≤ (countCycles s.cfg.cpl s).cyc.toNat + s.cfg.cpl := by omega
    refine ⟨.finished hp h' ht, hquiet hnodraw rfl ?_ rfl⟩
    rw [rowLeft_finished hp h, rowLeft_finished (by exact hp) (by exact h')]
    rfl

/-- The boundaries of a frame lie at or before CPF (W5). -/
theorem rowStart_le_cpf {c : Cfg} (hc : c.Admitted) {r : Nat} (hr : r ≤ c.vres) :
    c.rowStart r ≤ c.cpf := by
  obtain ⟨-, -, -, -, ⟨-, hfits, -⟩, -⟩ := hc
  exact Nat.le_trans (rowStart_le c hr) hfits

theorem canDraw_rowEnd_le_cpf (hs : CanDraw s) (hp : InRow s) :
    s.cfg.rowStart (s.line + 1) ≤ s.cfg.cpf :=
  rowStart_le_cpf (canDraw_cfg hs).1 (canDraw_line_lt hs hp)

/-- Under the conditions of R219 only a finished frame has reached CPF. -/
theorem FlushReady.finished_of_past (hs : CanDraw s) (h : FlushReady s)
    (hpast : s.cfg.cpf ≤ s.cyc.toNat) : FrameFinished v s s := by
  have ⟨hc, _⟩ := canDraw_cfg hs
  have ⟨_, _, _, ⟨_, hunits⟩, _⟩ := hc
  have ⟨⟨hline, _⟩, _⟩ := canDraw_positioned hs
  have hsucc := rowStart_succ s.cfg s.line
  cases h with
  | wait hp h =>
    have htarget := canDraw_target_wait hs hp
    have hfits := canDraw_rowEnd_le_cpf hs (.inl hp)
    omega
  | draw hp h =>
    have htarget := canDraw_target_draw hs hp
    have hfits := canDraw_rowEnd_le_cpf hs (.inr hp)
    omega
  | before hp h =>
    have hfits := rowStart_le_cpf hc (Nat.zero_le s.cfg.vres)
    have hfirst := firstThresh_le_rowStart s.cfg 0
    omega
  | finished hp h ht =>
    refine ⟨hp, hline hp, ht, fun r u ⟨hlo, hr, _⟩ _ => ?_, fun _ _ _ _ => rfl⟩
    rw [rowLeft_finished hp h] at hlo
    exact absurd hr (Nat.not_lt.mpr hlo)

theorem advance_osdVisible (n : Nat) (s : State) : (advance n s).osdVisible = s.osdVisible := by
  obtain ⟨p, l, u, ta, ca, cy, o, fb, bc, f, hframe⟩ := advance_frame n s
  rw [hframe]

/-- A FLUSH under the conditions of R219 that raises no fault finishes the frame. -/
theorem flush_frameFinished (hs : CanDraw s) (ho : s.osdVisible = some v) (h : FlushReady s)
    (hfault : (flush s).fault = none) : FrameFinished v s (flush s) := by
  have ⟨hr, _⟩ := hs
  have ⟨_, _, _, ⟨hcpl, _⟩, _⟩ := (canDraw_cfg hs).1
  refine flush_induct (P := fun s => CanDraw s → s.osdVisible = some v → FlushReady s →
      (flush s).fault = none → FrameFinished v s (flush s))
    (fun s _ hpast hflush hs _ h _ => ?_) (fun s _ _ hstop hflush _ _ _ hfault => ?_)
    (fun s hr hbefore hpass hflush ih hs ho h hfault => ?_) hr hcpl hs ho h hfault
  · rw [hflush]
    exact h.finished_of_past hs hpast
  · exact absurd (hflush ▸ hfault) hstop
  · have hn : s.cyc.toNat + s.cfg.cpl < 2 ^ 32 := advance_cyc hr.2 hpass ▸ BitVec.isLt _
    obtain ⟨hready, hfinishes⟩ := flushReady_advance hs ho hn h
    rw [hflush] at hfault ⊢
    exact hfinishes (ih (advance_canDraw hs hn) ((advance_osdVisible ..).trans ho) hready hfault)

end Ready

/-- Settles O43: FLUSH finishes the frame from the row in progress, or from the first. -/
theorem flushFinishesTheFrame : Obligations.FlushFinishesTheFrame := by
  intro s t col b f v hs h hfault hborder hlatch hflash ho hstart inProgress oneFrame
  have ⟨⟨_, hf⟩, _⟩ := hs
  rw [exec_flush hf] at h
  cases h
  obtain ⟨hready, hrow⟩ : FlushReady s ∧ rowLeft s = s.line := by
    obtain ⟨hp, h⟩ | ⟨hp, h⟩ | ⟨hp, h⟩ := hstart
    · exact ⟨.wait hp h, rowLeft_of_row (.inl hp)⟩
    · exact ⟨.draw hp h, rowLeft_of_row (.inr hp)⟩
    · exact ⟨.before hp h, rowLeft_before h⟩
  obtain ⟨hphase, hline, htarget, hpainted, hkept⟩ := flush_frameFinished hs ho hready hfault
  refine ⟨⟨hphase, hline, htarget⟩, fun r u hlo hr hu hcol osd hnow hlater => ?_,
    fun hone r j hout => hkept hone r j (by rwa [WordPast, hrow])⟩
  intro words hwords
  have hosd : rowVariant v s r = osd := by
    rw [rowVariant]
    split
    next h => exact (hnow h).symm
    next h => exact (hlater h).symm
  have hdue : wordsLeft v s r u = words := by
    rw [wordsLeft, hosd, wordsDue_of_inputs hborder hlatch hflash]
  rw [← hdue] at hwords ⊢
  exact hpainted r u ⟨hrow ▸ hlo, hr, hu, hrow ▸ hcol⟩ hwords

end Sys2Proof

/-! PROOFS. The statements of spec/44_host_commands.md on RESET, the input setters and FRAME_WRAP.
The words they name come first, by field. -/

namespace Sys2Proof

open Sys2Proof.Machine

/-! ### Words by their fields (R112) -/

/-- The words of RESET and INIT for the same operands differ in their OP fields, 0x2 and 0x1. -/
theorem encode_reset (m : Variant) (a : Aspect) :
    encode (.reset m a) = encode (.init m a) ^^^ 0x30000000 := by
  cases m <;> cases a <;> rfl

theorem formatFC_eq (op : BitVec 4) (c : Colour) :
    formatFC op c = placed 28 op ||| c.setWidth 32 := by
  rw [formatFC, placed_zero]

theorem formatF1_eq (op : BitVec 4) (v : BitVec 1) :
    formatF1 op v = placed 28 op ||| v.setWidth 32 := by
  rw [formatF1, placed_zero]

/-! ### RESET (R262) -/

/-- What a successful RESET M128, 16:9 leaves of a machine with the reference configurations: CFG
is the new mode's, whose FIRST_THRESH is (63 − 4)·228 − 4·6 = 13428 (R8, R261). -/
theorem exec_reset_reference {s : State} (hf : s.fault = none)
    (hc : s.configs = referenceConfigs) (halloc : s.allocs.headD true = true) :
    ∃ t, exec (.reset .m128 .a169) s = .next t ∧ t.mode = ⟨.m128, .a169⟩ ∧
      t.target = 13428 ∧ t.out = s.out ++ [0] := by
  obtain ⟨-, hreset⟩ := successfulInitBuildsEverything .m128 .a169 s hf halloc
  refine ⟨_, hreset, rfl, ?_, rfl⟩
  rw [hc]
  rfl

/-- Settles O14: both commands apply the one `initialise` of the mode. -/
theorem resetIsInit : Obligations.ResetIsInit :=
  ⟨fun _ _ _ => rfl, encode_reset, rfl, fun _ => exec_reset_reference⟩

/-! ### The input setters (R264 to R267) -/

/-- Settles O44: each setter's body is the one assignment, in every status, and its operand is the
field at bit 0. -/
theorem settersWriteTheirInput : Obligations.SettersWriteTheirInput := by
  intro s hf
  exact ⟨fun c => ⟨exec_running hf _, formatFC_eq 0x6 c⟩,
    fun v => ⟨exec_running hf _, formatF1_eq 0x7 _⟩,
    fun v => ⟨exec_running hf _, formatF1_eq 0x8 _⟩,
    exec_running hf _, exec_running hf _, rfl, rfl⟩

/-! ### FRAME_WRAP (R269) -/

/-- FRAME_WRAP at or past the frame's end. -/
theorem exec_frameWrap_past {s : State} (hr : s.Running) (h : s.cfg.cpf ≤ s.cyc.toNat) :
    exec .frameWrap s = .next { s with cyc := s.cyc - BitVec.ofNat 32 s.cfg.cpf } := by
  obtain ⟨hv, hf⟩ := hr
  rw [exec_running hf, commandBody, frameWrap, if_neg (not_not_intro hv),
    if_neg (Nat.not_lt.mpr h)]

/-- Subtracting a number the count holds does not borrow. -/
theorem sub_ofNat_toNat_add {x : Word} {n : Nat} (h : n ≤ x.toNat) :
    (x - BitVec.ofNat 32 n).toNat + n = x.toNat := by
  have hn : n < 2 ^ 32 := h.trans_lt x.isLt
  rw [BitVec.toNat_sub, BitVec.toNat_ofNat, Nat.mod_eq_of_lt hn]
  omega

/-- A frame of the reference M48 machine is 69888 cycles under both aspects (R8). -/
theorem cpf_reference_m48 {s : State} (hc : s.configs = referenceConfigs)
    (hv : s.mode.variant = .m48) : s.cfg.cpf = 69888 := by
  rw [State.cfg, hc, referenceConfigs_select, referenceCfg, hv]

/-- Settles O46: the two tests are O10's, and past them CPF is at most CYC, so the 32-bit
subtraction does not borrow. -/
theorem frameWrapSubtractsCpf : Obligations.FrameWrapSubtractsCpf := by
  refine ⟨fun s hf => ?_, rfl, fun s hr hc hm hcyc => ?_⟩
  · obtain ⟨hnotReady, hready⟩ := entryChecksRaiseInOrder s hf
    refine ⟨fun hv => ?_, fun hv => ?_, fun hv hpast =>
      ⟨_, exec_frameWrap_past ⟨hv, hf⟩ hpast, rfl, sub_ofNat_toNat_add hpast⟩⟩
    · obtain ⟨-, -, -, hwrap⟩ := hnotReady hv
      exact hwrap
    · obtain ⟨-, hwrap⟩ := hready hv
      exact hwrap
  · have hcpf := cpf_reference_m48 hc hm
    have hpast : s.cfg.cpf ≤ s.cyc.toNat := by rw [hcpf, hcyc]; decide
    rw [exec_frameWrap_past hr hpast, hcpf, hcyc]
    rfl

end Sys2Proof

/-! PROOFS. The statement of spec/70_reset_and_hazards.md on power-on (R330): the block waits for a
command. -/

namespace Sys2Proof

open Sys2Proof.Machine Sys2Proof.Claims

/-- With nothing handed over, a step under admitted configurations is idle (R330). -/
theorem step_of_inputs_nil {s : State} (ha : s.configs.admitted = true) (hs : s.inputs = []) :
    step s = .next s := by
  rw [step_of_admitted ha, takeInput, hs]

/-- Settles O7: power-on is under the reference configurations with nothing handed over, so its step
is one of the idle ones. -/
theorem powerOnWaitsForACommand : Obligations.PowerOnWaitsForACommand :=
  ⟨⟨rfl, rfl, rfl, rfl, rfl, rfl, rfl⟩, step_of_inputs_nil referenceConfigs_admitted rfl,
    fun _ => step_of_inputs_nil⟩

end Sys2Proof
